-- ==== Sys2Proof/Word.lean ====
section
/-! DEFINITION. The word types of the core: 64-bit words (R11), bytes, and the 32-bit values the configuration
registers hold (R25). All values are unsigned and bit 0 is the least significant bit (R11). -/

namespace Sys2Proof

/-- A lane, a register or a command word: 64 bits (R11). -/
abbrev Word := BitVec 64

/-- A byte of the message, of the sponge state or of the output buffer. -/
abbrev Byte := BitVec 8

/-- The value a staging register holds in its bits 31:0 (R25). -/
abbrev Half := BitVec 32

end Sys2Proof
end

