-- ==== Sys2Proof/Syntax.lean ====
section
/-! DEFINITION. The commands of the core, its analogue of instructions (R54, R57): one constructor per row of
spec/opcode_table.json. -/

namespace Sys2Proof

/-- A command (R57). The one explicit operand is ABSORB's byte count `N`, four bits of the command word (R56); every
other operand is implicit and sampled at acceptance (R47). -/
inductive Instr where
  /-- `NOP`, R65. -/
  | nop
  /-- `CONFIG`, R63. -/
  | config
  /-- `INIT`, R81. -/
  | init
  /-- `ABSORB n`, R82. All sixteen values of `N` decode; R90 refuses 0 and 9..15 with `E_ARG`. -/
  | absorb (n : BitVec 4)
  /-- `FINAL`, R86. -/
  | final
  /-- `PERMUTE`, R76. -/
  | permute
  /-- `ABORT`, R66. -/
  | abort
  deriving DecidableEq, Repr

end Sys2Proof
end

