-- ==== Sys2Proof/Decode.lean ====
section
/-! DEFINITION. Decoding and encoding of the command word `CW` (R55 to R58): the decoder is total and rejects by
name; the encoder is written from the same table. -/

namespace Sys2Proof

/-- `OP = CW[7:0]` (R55). -/
def opField (c : Word) : Byte := c.extractLsb' 0 8

/-- `N = CW[11:8]` (R55). -/
def nField (c : Word) : BitVec 4 := c.extractLsb' 8 4

/-- `RSV = CW[63:12]` (R55). -/
def rsvField (c : Word) : BitVec 52 := c.extractLsb' 12 52

/-- Why a word is no command (R58). All three are refused with `E_ILLEGAL` at the `CMD` write (R90). -/
inductive DecodeError where
  /-- `RSV ≠ 0`. -/
  | reservedBits
  /-- `OP` in 0x07..0xFF. -/
  | unknownOpcode
  /-- `N ≠ 0` with an `OP` other than 0x03. -/
  | strayOperand
  deriving DecidableEq, Repr

/-- The decoder (R57, R58): the whole word decides, no mode changes it (R54). -/
def decode (c : Word) : Except DecodeError Instr :=
  if rsvField c ≠ 0 then .error .reservedBits
  else if opField c = 0x03 then .ok (.absorb (nField c))
  else if 0x06 < opField c then .error .unknownOpcode
  else if nField c ≠ 0 then .error .strayOperand
  else if opField c = 0x00 then .ok .nop
  else if opField c = 0x01 then .ok .config
  else if opField c = 0x02 then .ok .init
  else if opField c = 0x04 then .ok .final
  else if opField c = 0x05 then .ok .permute
  else .ok .abort

/-- The `OP` of a command (R57). -/
def Instr.opcode : Instr → Byte
  | .nop => 0x00
  | .config => 0x01
  | .init => 0x02
  | .absorb _ => 0x03
  | .final => 0x04
  | .permute => 0x05
  | .abort => 0x06

/-- The `N` of a command (R55, R56): 0 in every command but ABSORB. -/
def Instr.operandN : Instr → BitVec 4
  | .absorb n => n
  | .nop | .config | .init | .final | .permute | .abort => 0

/-- The encoder: the command word of a command (R55, R61's `CW(M)`). -/
def encode (i : Instr) : Word := 0#52 ++ i.operandN ++ i.opcode

/-- The match value of a command's row of the opcode map (R57). -/
def Instr.rowMatch : Instr → Word
  | .nop => 0x0000000000000000
  | .config => 0x0000000000000001
  | .init => 0x0000000000000002
  | .absorb _ => 0x0000000000000003
  | .final => 0x0000000000000004
  | .permute => 0x0000000000000005
  | .abort => 0x0000000000000006

/-- The mask of a command's row of the opcode map (R57). -/
def Instr.rowMask : Instr → Word
  | .absorb _ => 0xFFFFFFFFFFFFF0FF
  | .nop | .config | .init | .final | .permute | .abort => 0xFFFFFFFFFFFFFFFF

/-- The instruction the decoder reads from a table row's bits: a command is one 64-bit word, written to `CMD` in one
access (R54), so the bits above `nbits` are 0 and a value wider than a word is none. -/
def decodeTableWord (nbits w : Nat) : Option Instr :=
  if w % 2 ^ nbits < 2 ^ 64 then (decode (BitVec.ofNat 64 (w % 2 ^ nbits))).toOption else none

end Sys2Proof
end

