-- ==== Sys2Proof/Config.lean ====
section
/-! DEFINITION. What an implementation fixes: the parameters of rule R8 (the constant tables, the size of the output
buffer, the exact-multiple reading and the base address), their default values, and which values are allowed. -/

namespace Sys2Proof

/-- The parameters a model of the core takes (R8). They are not state: no command writes them (R17); `State` only
carries them along, so that every claim about all states is a claim about all parameters (log entry 1). -/
structure Params where
  /-- `RC[0..23]`, the round constants (R67). -/
  rc : Vector Word 24
  /-- `RHO[x][y]`, the rotation offsets: `rho[x][y]`, indexed by the source coordinates (R68). -/
  rho : Vector (Vector Nat 5) 5
  /-- `MAX_OUT_BYTES`, the size of the output buffer in bytes. -/
  maxOutBytes : Nat
  /-- `P_LAST_CHUNK_PERMUTED`: whether a full last chunk is permuted before the padding block (R78, conflict C2). -/
  lastChunkPermuted : Bool
  /-- `CORE_BASE`, the bus address of the register window. The spec leaves it OPEN and no rule reads it. -/
  coreBase : Nat
  deriving DecidableEq, Repr

/-- R67's table as it is printed: row `ir` of 0..11 holds `RC[ir]` and `RC[ir + 12]`. PRESUMED: the spec supplies the
values from general knowledge (log entry 2). -/
def Params.standardRcRows : List (Word × Word) :=
  [(0x0000000000000001, 0x000000008000808B),
   (0x0000000000008082, 0x800000000000008B),
   (0x800000000000808A, 0x8000000000008089),
   (0x8000000080008000, 0x8000000000008003),
   (0x000000000000808B, 0x8000000000008002),
   (0x0000000080000001, 0x8000000000000080),
   (0x8000000080008081, 0x000000000000800A),
   (0x8000000000008009, 0x800000008000000A),
   (0x000000000000008A, 0x8000000080008081),
   (0x0000000000000088, 0x8000000000008080),
   (0x0000000080008009, 0x0000000080000001),
   (0x000000008000000A, 0x8000000080008008)]

/-- The default `RC` (R67): the table's left column, then its right one. -/
def Params.standardRc : Vector Word 24 :=
  ⟨(standardRcRows.map Prod.fst ++ standardRcRows.map Prod.snd).toArray, rfl⟩

/-- The default `RHO` of R68, one inner vector per `x`: the spec prints rows `y` and columns `x`.
PRESUMED: the spec supplies the values from general knowledge (log entry 2). -/
def Params.standardRho : Vector (Vector Nat 5) 5 :=
  #v[#v[0, 36, 3, 41, 18], #v[1, 44, 10, 45, 2], #v[62, 6, 43, 15, 61], #v[28, 55, 25, 21, 56],
     #v[27, 20, 39, 8, 14]]

/-- The default parameters of R8. `CORE_BASE` has no default (OPEN): 0 stands there, and no rule reads it
(DESIGN CHOICE, log entry 3). -/
def Params.standard : Params where
  rc := standardRc
  rho := standardRho
  maxOutBytes := 256
  lastChunkPermuted := true
  coreBase := 0

/-- The parameter values R8 allows: `MAX_OUT_BYTES` a multiple of 8 in 256..524280 (R64 has a model reject a smaller
one), every rotation offset in 0..63. -/
def Params.valid (P : Params) : Bool :=
  P.maxOutBytes % 8 == 0 && 256 ≤ P.maxOutBytes && P.maxOutBytes ≤ 524280 &&
    P.rho.toList.all fun column => column.toList.all fun n => n < 64

/-- `WIN`, the size of the register window in bytes (R37). -/
def Params.win (P : Params) : Nat := 0x200 + P.maxOutBytes

/-- The bus address of the register at offset `off` (R37): how a platform finds the window. The core itself sees
offsets only (R14). -/
def Params.busAddress (P : Params) (off : Nat) : Nat := P.coreBase + off

end Sys2Proof
end

