-- ==== Sys2Proof/Machine/State.lean ====
section
/-! DEFINITION. The state of the core as plain data (10_state.md), the events of its three agents (R16), the reasons a
step can stop, and the state after reset (R104). -/

namespace Sys2Proof.Machine

/-- `PHASE` (R22, R24). The field's fourth value, 3, never occurs and has no constructor (log entry 9). -/
inductive Phase where
  /-- 0: no digest in progress. -/
  | ready
  /-- 1: a digest takes message bytes in chaining round 1. -/
  | absorbing
  /-- 2: FINAL has completed and `OUT` holds the digest. -/
  | done
  deriving DecidableEq, Repr

/-- Four 32-bit configuration values: `stateWidthBits`, `capacityBits`, `outputLengthBits`, `computeRounds` (R25). -/
structure CfgWords where
  width : Half
  capacity : Half
  outlen : Half
  rounds : Half
  deriving DecidableEq, Repr

/-- The command latch (R33): the operands of the accepted command, sampled at acceptance (R47). -/
structure Latch where
  /-- `lat_op`. -/
  op : Byte
  /-- `lat_n`. -/
  n : BitVec 4
  /-- `lat_din`. -/
  din : Word
  /-- `lat_cfg`. -/
  cfg : CfgWords
  deriving DecidableEq, Repr

/-- The lane file `A[0..24]` (R18). -/
abbrev Lanes := Vector Word 25

/-- The bytes of the output buffer that are not 0, by rising index (R20, log entry 14). -/
abbrev Memory := List Host.Cell

/-- One host access as the bus presents it (R14, R41): a byte offset into the window, a width in bytes and the byte
enables (all eight set in a whole access). -/
structure Access where
  off : Nat
  width : Nat
  enables : BitVec 8
  deriving DecidableEq, Repr

/-- An event of one of the three agents (R16, R49). Each is indivisible, and the core takes them one at a time. -/
inductive Event where
  /-- The host reads: `MemRead`. -/
  | hostRead (a : Access)
  /-- The host writes: `MemWrite`. -/
  | hostWrite (a : Access) (v : Word)
  /-- The core completes its accepted command, if it has one (R48). -/
  | coreComplete
  /-- The reset input (R103). -/
  | reset
  deriving DecidableEq, Repr

/-- What the bus answers to an access (R41): the data of a read, and whether it is an error response. -/
inductive BusResponse where
  | read (data : Word) (error : Bool)
  | write (error : Bool)
  deriving DecidableEq, Repr

/-- The names of the error codes of R89; `ErrorCode.code` gives their numbers. -/
inductive ErrorCode where
  /-- `E_CFG`. -/
  | cfg
  /-- `E_BUSY`. -/
  | busy
  /-- `E_ILLEGAL`. -/
  | illegal
  /-- `E_ARG`. -/
  | arg
  /-- `E_PHASE`. -/
  | phase
  /-- `E_NOCFG`. -/
  | noCfg
  /-- `E_ACCESS`. -/
  | access
  /-- `E_BUS`. -/
  | bus
  deriving DecidableEq, Repr

/-- The invariants of R94 a model must stop on when it finds one broken, and the one of R33 the completion needs. No
run from reset reaches any of them. -/
inductive Fault where
  /-- `p > rateBytes` (R94). Raised by the guard of every step and command. Safe. -/
  | positionAboveRate
  /-- `PHASE = ABSORBING` with `CFG_OK = 0` (R94). Raised by the guard of every step and command. Safe. -/
  | absorbingUnconfigured
  /-- `CFG_OK = 1` with `rateBytes` outside 8..200 (R94). Raised by the guard of every step and command. Safe. -/
  | rateOutOfRange
  /-- `BUSY = 1` and the latched word decodes to no command, where R33 has the latch hold the accepted one. The latch after
  reset is not this case: its word 0 decodes to NOP. Raised by the completion. Safe (DEDUCED, log entry 11). -/
  | latchHoldsNoCommand
  deriving DecidableEq, Repr

/-- Why the model does not run at all. -/
inductive Refusal where
  /-- An instruction without a meaning: raised by no arm of `exec`, since every command has one. Safe. -/
  | notModelled (mnemonic : String)
  /-- Parameter values R8 does not allow: "a model must reject" them (R64). Raised by the guard of every step and
  command. Safe. -/
  | invalidParameters
  deriving DecidableEq, Repr

/-- The state of the core. INVENTORY.md lists each field with its rule and its reset value. -/
structure State where
  /-- The parameters of the machine (R8, R17); no step changes them (log entry 1). -/
  params : Params
  /-- `A[0..24]` (R18). -/
  lanes : Lanes
  /-- `OUT[0 .. MAX_OUT_BYTES-1]` (R20). -/
  out : Memory
  /-- `DIN` (R27). -/
  din : Word
  /-- The staging registers `CFG_WIDTH`, `CFG_CAPACITY`, `CFG_OUTLEN`, `CFG_ROUNDS` (R25). -/
  staging : CfgWords
  /-- `act_width`, `act_capacity`, `act_outlen`, `act_rounds` (R26). -/
  active : CfgWords
  /-- `CFG_OK` (R22, R26). -/
  cfgOk : Bool
  /-- `BUSY` (R23). -/
  busy : Bool
  /-- `PHASE` (R24). -/
  phase : Phase
  /-- `MSGLEN` (R29). -/
  msgLen : Word
  /-- `p`, the byte position in the current rate block, shown by `SPOS` (R30). -/
  pos : Nat
  /-- `ERRINFO` (R31). -/
  errInfo : Word
  /-- `INT.DONE_PEND` (R32). -/
  donePend : Bool
  /-- `INT.ERR_PEND` (R32). -/
  errPend : Bool
  /-- `INT.DONE_EN` (R32). -/
  doneEn : Bool
  /-- `INT.ERR_EN` (R32). -/
  errEn : Bool
  /-- The command latch (R33). -/
  latch : Latch
  /-- The MODEL's own field: the events still to come, oldest first (R49, log entry 5). -/
  events : List Event
  /-- The MODEL's own field: the bus's answer to the last host access (R41, log entry 13). -/
  response : Option BusResponse
  deriving DecidableEq, Repr

/-- The defaults of the source's `Construct`: what the staging registers and the active configuration hold after
reset (R25, R64). -/
def CfgWords.standard : CfgWords where
  width := 1600
  capacity := 1024
  outlen := 2048
  rounds := 12

/-- The latch after reset, all 0: R104 says that it holds no command. `BUSY` is 0 beside it. -/
def Latch.empty : Latch where
  op := 0
  n := 0
  din := 0
  cfg := { width := 0, capacity := 0, outlen := 0, rounds := 0 }

/-- The zero state of the sponge (R18). -/
def zeroLanes : Lanes := Vector.replicate 25 0

/-- A core with parameters `P` right after reset (R104). -/
def State.resetWith (P : Params) : State where
  params := P
  lanes := zeroLanes
  out := []
  din := 0
  staging := .standard
  active := .standard
  cfgOk := true
  busy := false
  phase := .ready
  msgLen := 0
  pos := 0
  errInfo := 0
  donePend := false
  errPend := false
  doneEn := false
  errEn := false
  latch := .empty
  events := []
  response := none

/-- The core with the default parameters of R8 right after reset (R104). -/
def State.reset : State := State.resetWith Params.standard

end Sys2Proof.Machine
end

