-- ==== Sys2Proof/Machine/Flags.lean ====
section
/-! DEFINITION. The computed status of the core: the core has no condition codes (R36), so what stands here is the
sizes derived from a configuration (R9), the configuration checks (R62), the fields of `ERRINFO` (R31), the bits of
`STATUS` (R22) and `INT` (R32) and the interrupt output (R95). -/

namespace Sys2Proof.Machine

/-- `rateBytes = (width - capacity) / 8` (R9, R26). -/
def CfgWords.rateBytes (c : CfgWords) : Nat := (c.width.toNat - c.capacity.toNat) / 8

/-- `outputLengthBytes = outlen / 8` (R9, R26). -/
def CfgWords.outBytes (c : CfgWords) : Nat := c.outlen.toNat / 8

/-- `rateBytes` of the active configuration (R26). -/
def State.rateBytes (s : State) : Nat := s.active.rateBytes

/-- `outputLengthBytes` of the active configuration (R26). -/
def State.outBytes (s : State) : Nat := s.active.outBytes

/-- `Validate(w, c, o, R)`: the set of failed checks, bit 7 (never set) first and bit 0 (`W64`) last (R62). -/
def validate (P : Params) (c : CfgWords) : Byte :=
  0#1 ++ BitVec.ofBool (c.rounds.toNat == 0) ++ BitVec.ofBool (8 * P.maxOutBytes < c.outlen.toNat) ++
    BitVec.ofBool (c.width.toNat != 1600) ++ BitVec.ofBool (c.outlen.toNat % 8 != 0) ++
    BitVec.ofBool (c.width.toNat ≤ c.capacity.toNat) ++ BitVec.ofBool (c.capacity.toNat % 64 != 0) ++
    BitVec.ofBool (c.width.toNat % 64 != 0)

/-- The number of an error code (R89). -/
def ErrorCode.code : ErrorCode → Byte
  | .cfg => 0x01
  | .busy => 0x02
  | .illegal => 0x03
  | .arg => 0x04
  | .phase => 0x05
  | .noCfg => 0x06
  | .access => 0x07
  | .bus => 0x08

/-- `ERRINFO.CODE`, bits 7:0 (R31). -/
def errCodeField (w : Word) : Byte := w.extractLsb' 0 8

/-- The `ERRINFO` word of an error: `{16'b0, off[15:0], 8'b0, cause, op, code}` (R91). -/
def packError (e : ErrorCode) (op cause : Byte) (off : Nat) : Word :=
  0#16 ++ BitVec.ofNat 16 off ++ 0#8 ++ cause ++ op ++ e.code

/-- The number of a phase in `STATUS.PHASE` (R22). -/
def Phase.code : Phase → BitVec 2
  | .ready => 0
  | .absorbing => 1
  | .done => 2

/-- `STATUS.ERR` (R22): `ERRINFO.CODE != 0`. -/
def State.err (s : State) : Bool := errCodeField s.errInfo != 0

/-- `STATUS.PEND` (R22): a full chunk is absorbed and its permutation is deferred. -/
def State.pend (s : State) : Bool := s.phase == .absorbing && s.pos == s.rateBytes

/-- The `STATUS` register (R22). -/
def State.statusWord (s : State) : Word :=
  0#58 ++ BitVec.ofBool s.pend ++ BitVec.ofBool s.err ++ BitVec.ofBool s.cfgOk ++ s.phase.code ++
    BitVec.ofBool s.busy

/-- The `INT` register (R32). -/
def State.intWord (s : State) : Word :=
  0#54 ++ BitVec.ofBool s.errEn ++ BitVec.ofBool s.doneEn ++ 0#6 ++ BitVec.ofBool s.errPend ++
    BitVec.ofBool s.donePend

/-- The level of the interrupt output (R95). -/
def State.irq (s : State) : Bool := s.donePend && s.doneEn || s.errPend && s.errEn

end Sys2Proof.Machine
end

