-- ==== Sys2Proof/WellFormed.lean ====
section
/-! DEFINITION. Which command terms are well formed: ABSORB takes a byte count from 1 to 8 (R56); every other command
has no explicit operand and is always well formed. -/

namespace Sys2Proof

/-- ABSORB's check (R56): at least one byte. -/
def Instr.absorbsSomething : Instr → Bool
  | .absorb n => n != 0
  | .nop | .config | .init | .final | .permute | .abort => true

/-- ABSORB's check (R56): at most the eight bytes that `DIN` holds. -/
def Instr.absorbsAtMostDin : Instr → Bool
  | .absorb n => n ≤ 8
  | .nop | .config | .init | .final | .permute | .abort => true

/-- A command whose operand the spec gives a meaning (R56). An ABSORB that fails this is refused with `E_ARG` (R90). -/
def Instr.wf (i : Instr) : Bool := i.absorbsSomething && i.absorbsAtMostDin

end Sys2Proof
end

