-- ==== Sys2Proof/Machine/Ops.lean ====
section
/-! DEFINITION. The operations the commands share: 64-bit rotation and byte access of the lanes (R12, R13), the bytes
of the output buffer (R20), recording and clearing an error (the core's trap and its return, R91 and R93), the
acceptance of a command (R47, R90), the guard of R94, and the two events of a command (R47, R48). -/

namespace Sys2Proof.Machine

/-! ### Lanes and their bytes -/

/-- The 64-bit circular left rotate; the amount is taken modulo 64 (R12). -/
def rotl64 (v : Word) (n : Nat) : Word := v <<< (n % 64) ||| v >>> (64 - n % 64)

/-- Byte `k` of a word, bits `8k+7 .. 8k`: the one byte order of the core (R40). -/
def byteOf (v : Word) (k : Nat) : Byte := v.extractLsb' (8 * k) 8

/-- `A[i]` (R13). The lane file has 25 lanes, and no rule reads another. -/
def laneAt (A : Lanes) (i : Nat) : Word := A[i]?.getD 0

/-- `sbyte(i)`, byte `i` of the state (R13, R19). -/
def sbyte (A : Lanes) (i : Nat) : Byte := byteOf (laneAt A (i / 8)) (i % 8)

/-- `sxor(i, b)`: XOR `b` into byte `i` of the state (R13). -/
def sxor (A : Lanes) (i : Nat) (b : Byte) : Lanes :=
  A.setIfInBounds (i / 8) (laneAt A (i / 8) ^^^ b.zeroExtend 64 <<< (i % 8 * 8))

/-! ### The output buffer -/

/-- What a byte of `OUT` that is not listed holds: 0, which reset and INIT give every byte (R20, R104). -/
def Memory.unlisted : Byte := 0

/-- `OUT[a]` (R13). -/
def Memory.read : Memory → Nat → Byte
  | [], _ => Memory.unlisted
  | (k, b) :: m, a => if k = a then b else Memory.read m a

/-- A listed byte in front of a buffer: nothing is listed for the value that an unlisted byte holds. -/
def Memory.cons (a : Nat) (b : Byte) (m : Memory) : Memory :=
  if b = Memory.unlisted then m else (a, b) :: m

/-- `OUT[a] <- b` (R13), keeping the canonical form. -/
def Memory.write : Memory → Nat → Byte → Memory
  | [], a, b => Memory.cons a b []
  | (k, c) :: m, a, b =>
    if a < k then Memory.cons a b ((k, c) :: m)
    else if a = k then Memory.cons a b m
    else (k, c) :: Memory.write m a b

/-- The canonical form: indexes strictly rise and no entry equals what an unlisted byte holds. -/
abbrev Memory.wf (m : Memory) : Prop :=
  m.Pairwise (fun c d => c.1 < d.1) ∧ ∀ c ∈ m, c.2 ≠ Memory.unlisted

/-- `OUT[0 .. n-1]` as a sequence of bytes (R84's `theHash`). -/
def Memory.bytes (m : Memory) (n : Nat) : List Byte := (List.range n).map m.read

/-- The word `{OUT[8j+7], ..., OUT[8j]}` of the buffer (R46). -/
def Memory.word (m : Memory) (j : Nat) : Word :=
  m.read (8 * j + 7) ++ m.read (8 * j + 6) ++ m.read (8 * j + 5) ++ m.read (8 * j + 4) ++
    m.read (8 * j + 3) ++ m.read (8 * j + 2) ++ m.read (8 * j + 1) ++ m.read (8 * j)

/-! ### The trap and its return -/

/-- `RecordError(code, op, cause, off)`: the core's trap (R91, R92). Only the first error since the last clear is
kept, and nothing but the error record changes. -/
def recordError (e : ErrorCode) (op cause : Byte) (off : Nat) (s : State) : State :=
  { s with
    errInfo := if errCodeField s.errInfo = 0 then packError e op cause off else s.errInfo
    errPend := true }

/-- The host clears the error record by writing 1 to `INT` bit 1: the return from the trap (R93). -/
def clearError (s : State) : State := { s with errInfo := 0, errPend := false }

/-! ### Acceptance -/

/-- `Legal(op)`: the phases a command is legal in (R59). -/
def legalIn : Instr → Phase → Bool
  | .nop, _ | .init, _ | .abort, _ => true
  | .config, p | .permute, p => p != .absorbing
  | .absorb _, p | .final, p => p == .absorbing

/-- Which command needs `CFG_OK = 1` at acceptance (R59, R90): INIT alone; ABSORB and FINAL have it by their phase. -/
def needsCfg : Instr → Bool
  | .init => true
  | .nop | .config | .absorb _ | .final | .permute | .abort => false

/-- The operands of an accepted command are latched and `BUSY` is set, in the same access (R47). -/
def latchCommand (i : Instr) (s : State) : State :=
  { s with
    latch := { op := i.opcode, n := i.operandN, din := s.din, cfg := s.staging }
    busy := true }

/-- The acceptance checks a decoded command meets, in R90's order: `E_ARG`, `E_PHASE`, `E_NOCFG`. The two before them,
`E_BUSY` and `E_ILLEGAL`, are made on the word (`presentCommand`). A refused command changes only the error record. -/
def accept (i : Instr) (s : State) : State :=
  if !i.wf then recordError .arg i.opcode 0 0 s
  else if !legalIn i s.phase then recordError .phase i.opcode 0 0 s
  else if needsCfg i && !s.cfgOk then recordError .noCfg i.opcode 0 0 s
  else latchCommand i s

/-! ### The guard and the two events of a command -/

/-- Continue only from a state that keeps the invariants of R94, under parameters that R8 allows; "a model that ever
finds one of these invariants broken must treat the state as a fault, never continue from it". -/
def guarded (s : State) (go : Host.Outcome State Fault Refusal) : Host.Outcome State Fault Refusal :=
  if !s.params.valid then .refused .invalidParameters
  else if s.rateBytes < s.pos then .fault .positionAboveRate
  else if s.phase = .absorbing ∧ s.cfgOk = false then .fault .absorbingUnconfigured
  else if s.cfgOk = true ∧ ¬(8 ≤ s.rateBytes ∧ s.rateBytes ≤ 200) then .fault .rateOutOfRange
  else go

/-- A command's two events. With `BUSY = 0` the command is presented by a `CMD` write: it is refused or accepted (R47,
R90). With `BUSY = 1` it is the latched command and completes: its effect and `BUSY <- 0` land together (R48). -/
def runCommand (i : Instr) (effect : State → State) (s : State) : Host.Outcome State Fault Refusal :=
  guarded s (if s.busy then .next { effect s with busy := false } else .next (accept i s))

end Sys2Proof.Machine
end

