-- ==== Sys2Proof/Machine/Operands.lean ====
section
/-! DEFINITION. Where operands come from: the registers of the window and what reading and writing each gives (R38,
R42 to R46), which accesses are whole (R41), and the operands a completing command takes from the latch (R33, R56). -/

namespace Sys2Proof.Machine

/-! ### Operands of the latched command -/

/-- The message bytes an ABSORB of `n` takes from a `DIN` value: byte 0 first, bytes above `n` ignored (R82). -/
def dinBytes (din : Word) (n : BitVec 4) : List Byte := (List.range n.toNat).map (byteOf din)

/-- The word of the latched command, `lat_op` in bits 7:0 and `lat_n` in bits 11:8 (R33, R47). -/
def Latch.word (l : Latch) : Word := 0#52 ++ l.n ++ l.op

/-! ### The register map -/

/-- A register of the window (R38). -/
inductive Reg where
  | id
  | status
  | cmd
  | din
  | cfgWidth
  | cfgCapacity
  | cfgOutlen
  | cfgRounds
  | rateBytes
  | outBytes
  | rounds
  | msgLen
  | spos
  | errInfo
  | int
  /-- The offsets 0x078 and 0x148 .. 0x1F8. -/
  | reserved
  /-- `LANE[i]`. -/
  | lane (i : Nat)
  /-- `OUTW[j]`. -/
  | outw (j : Nat)
  deriving DecidableEq, Repr

/-- The register at an aligned offset below `WIN` (R38). -/
def regAt (off : Nat) : Reg :=
  if off = 0x000 then .id
  else if off = 0x008 then .status
  else if off = 0x010 then .cmd
  else if off = 0x018 then .din
  else if off = 0x020 then .cfgWidth
  else if off = 0x028 then .cfgCapacity
  else if off = 0x030 then .cfgOutlen
  else if off = 0x038 then .cfgRounds
  else if off = 0x040 then .rateBytes
  else if off = 0x048 then .outBytes
  else if off = 0x050 then .rounds
  else if off = 0x058 then .msgLen
  else if off = 0x060 then .spos
  else if off = 0x068 then .errInfo
  else if off = 0x070 then .int
  else if off < 0x080 then .reserved
  else if off ≤ 0x140 then .lane ((off - 0x080) / 8)
  else if off < 0x200 then .reserved
  else .outw ((off - 0x200) / 8)

/-- A whole access: 8 bytes wide with all byte enables, at a multiple of 8 below `WIN` (R41). Every other access is a
bus error. -/
def Access.whole (P : Params) (a : Access) : Bool :=
  a.off % 8 == 0 && a.off < P.win && a.width == 8 && a.enables == 0xFF

/-- The `ID` register (R21). -/
def idWord (P : Params) : Word := 0x464C5859#32 ++ BitVec.ofNat 16 (P.maxOutBytes / 8) ++ 0x0007#16

/-- `ReadReg` (R43): the value of a register, reserved bits 0. No read has a side effect. -/
def readReg (s : State) : Reg → Word
  | .id => idWord s.params
  | .status => s.statusWord
  | .cmd => 0
  | .din => s.din
  | .cfgWidth => s.staging.width.zeroExtend 64
  | .cfgCapacity => s.staging.capacity.zeroExtend 64
  | .cfgOutlen => s.staging.outlen.zeroExtend 64
  | .cfgRounds => s.staging.rounds.zeroExtend 64
  | .rateBytes => if s.cfgOk then BitVec.ofNat 64 s.rateBytes else 0
  | .outBytes => if s.cfgOk then BitVec.ofNat 64 s.outBytes else 0
  | .rounds => if s.cfgOk then s.active.rounds.zeroExtend 64 else 0
  | .msgLen => s.msgLen
  | .spos => (BitVec.ofNat 8 s.pos).zeroExtend 64
  | .errInfo => s.errInfo
  | .int => s.intWord
  | .reserved => 0
  | .lane i => if s.busy then 0 else laneAt s.lanes i
  | .outw j => if s.busy then 0 else s.out.word j

/-- A write to `INT` (R44): write 1 to clear the pending bits, bit 1 clearing `ERRINFO` too; bits 8 and 9 are the
enables. -/
def writeInt (v : Word) (s : State) : State :=
  let s := if v.getLsbD 0 then { s with donePend := false } else s
  let s := if v.getLsbD 1 then clearError s else s
  { s with doneEn := v.getLsbD 8, errEn := v.getLsbD 9 }

/-- A write to `LANE[i]` at offset `off` (R45): refused with `E_ACCESS` while busy or during a digest. -/
def writeLane (off i : Nat) (v : Word) (s : State) : State :=
  if s.busy = true ∨ s.phase = .absorbing then recordError .access 0 0 off s
  else { s with lanes := s.lanes.setIfInBounds i v }

/-- `WriteReg` (R44) of every register but `CMD`, whose write presents a command (`presentCommand`): `off` is the
offset of the access. Read-only registers and reserved offsets ignore the write (R42). -/
def writeReg (off : Nat) (v : Word) (s : State) : Reg → State
  | .din => { s with din := v }
  | .cfgWidth => { s with staging := { s.staging with width := v.extractLsb' 0 32 } }
  | .cfgCapacity => { s with staging := { s.staging with capacity := v.extractLsb' 0 32 } }
  | .cfgOutlen => { s with staging := { s.staging with outlen := v.extractLsb' 0 32 } }
  | .cfgRounds => { s with staging := { s.staging with rounds := v.extractLsb' 0 32 } }
  | .int => writeInt v s
  | .lane i => writeLane off i v s
  | .id | .status | .cmd | .rateBytes | .outBytes | .rounds | .msgLen | .spos | .errInfo | .reserved | .outw _ => s

end Sys2Proof.Machine
end

