-- ==== Sys2Proof/Machine/Permutation.lean ====
section
/-! DEFINITION. The permutation (41_permutation.md): theta, the fused rho+pi walk, chi and iota, the 24 rounds, and the
PERMUTE command. Coordinates `x, y` are in 0..4, so `x + 4` is the spec's `(x - 1) mod 5` (R12). -/

namespace Sys2Proof.Machine

/-- `lane(x, y) = A[x + 5*y]` (R13, R18). -/
def lane (A : Lanes) (x y : Fin 5) : Word := A[x.val + 5 * y.val]

/-- The lanes whose value at each position is given by `f`. -/
def lanesOf (f : Fin 5 → Fin 5 → Word) : Lanes :=
  Vector.ofFn fun i : Fin 25 => f ⟨i.val % 5, by omega⟩ ⟨i.val / 5, by omega⟩

/-- Theta's column parities `C[0..4]` (R69). -/
def columnParity (A : Lanes) : Vector Word 5 :=
  Vector.ofFn fun x => lane A x 0 ^^^ lane A x 1 ^^^ lane A x 2 ^^^ lane A x 3 ^^^ lane A x 4

/-- Theta's `D[0..4]` (R69). -/
def thetaMask (C : Vector Word 5) : Vector Word 5 :=
  Vector.ofFn fun x : Fin 5 => C[x + 4] ^^^ rotl64 C[x + 1] 1

/-- Theta (R69): every parity is taken before any lane changes. -/
def theta (A : Lanes) : Lanes :=
  let D := thetaMask (columnParity A)
  lanesOf fun x y => lane A x y ^^^ D[x]

/-- The rho+pi walk in progress: the position, the carried lane and the lanes so far (R34, R71). -/
structure Walk where
  x : Fin 5
  y : Fin 5
  current : Word
  lanes : Lanes

/-- One step of the walk (R71): the destination `(y, 2x + 3y)` receives the rotated carried lane, and the lane that
stood there is carried on. -/
def walkStep (rho : Vector (Vector Nat 5) 5) (w : Walk) : Walk :=
  let nx := w.y
  let ny := 2 * w.x + 3 * w.y
  { x := nx
    y := ny
    current := lane w.lanes nx ny
    lanes := w.lanes.set (nx.val + 5 * ny.val) (rotl64 w.current rho[w.x][w.y]) }

/-- The walk after `t` steps, from position (1, 0) (R70, R71). -/
def walkAfter (rho : Vector (Vector Nat 5) 5) (A : Lanes) : Nat → Walk
  | 0 => { x := 1, y := 0, current := lane A 1 0, lanes := A }
  | t + 1 => walkStep rho (walkAfter rho A t)

/-- Rho+pi (R71): the walk has exactly 24 steps (conflict C1), and lane (0, 0) is unchanged. -/
def rhoPi (rho : Vector (Vector Nat 5) 5) (A : Lanes) : Lanes := (walkAfter rho A 24).lanes

/-- Chi (R72): each row is computed from an unmodified snapshot of itself. -/
def chi (A : Lanes) : Lanes :=
  lanesOf fun x y => lane A x y ^^^ (~~~lane A (x + 1) y &&& lane A (x + 2) y)

/-- Iota (R73): the round constant goes into lane (0, 0) only. -/
def iota (rc : Word) (A : Lanes) : Lanes := A.set 0 (A[0] ^^^ rc)

/-- `Round(ir)` with the round constant `rc = RC[ir]` (R74). -/
def permRound (rho : Vector (Vector Nat 5) 5) (A : Lanes) (rc : Word) : Lanes :=
  iota rc (chi (rhoPi rho (theta A)))

/-- `Permute()`: the rounds 0 to 23 in order (R75). -/
def permute (P : Params) (A : Lanes) : Lanes := P.rc.toList.foldl (permRound P.rho) A

/-- What PERMUTE does at completion (R76). -/
def permuteEffect (s : State) : State := { s with lanes := permute s.params s.lanes }

/-- `PERMUTE` (R76): one permutation of the lane file. -/
def execPermute (s : State) : Host.Outcome State Fault Refusal := runCommand .permute permuteEffect s

end Sys2Proof.Machine
end

