-- ==== Sys2Proof/Machine/Sponge.lean ====
section
/-! DEFINITION. The sponge (42_sponge.md): absorbing a byte, finishing the absorption, squeezing, and the commands INIT
and ABSORB. `rate` is `rateBytes` and `q` is `outputLengthBytes` of the active configuration. -/

namespace Sys2Proof.Machine

/-- The sponge while it absorbs: the lane file and the position `p` in the rate block (R18, R30). -/
structure Sponge where
  lanes : Lanes
  pos : Nat
  deriving DecidableEq, Repr

/-- `AbsorbByte(b)` (R77): a full chunk's permutation is deferred until the next byte arrives. -/
def absorbByte (P : Params) (rate : Nat) (sp : Sponge) (b : Byte) : Sponge :=
  if sp.pos = rate then { lanes := sxor (permute P sp.lanes) 0 b, pos := 1 }
  else { lanes := sxor sp.lanes sp.pos b, pos := sp.pos + 1 }

/-- `AbsorbByte` of each byte of a sequence, in order (R82, R83). -/
def absorbBytes (P : Params) (rate : Nat) (sp : Sponge) (bs : List Byte) : Sponge :=
  bs.foldl (absorbByte P rate) sp

/-- The state the padding goes into (R78): a deferred last chunk is permuted first if `P_LAST_CHUNK_PERMUTED`. -/
def settleChunk (P : Params) (rate : Nat) (sp : Sponge) : Sponge :=
  if sp.pos = rate then
    { lanes := if P.lastChunkPermuted then permute P sp.lanes else sp.lanes, pos := 0 }
  else sp

/-- The padding (R78): the start marker 0x06 at the position and the end bit 0x80 in the last byte of the block. -/
def padBlock (rate : Nat) (sp : Sponge) : Lanes := sxor (sxor sp.lanes sp.pos 0x06) (rate - 1) 0x80

/-- `FinishAbsorb()` (R78): the lanes it leaves; the position becomes 0. -/
def finishAbsorb (P : Params) (rate : Nat) (sp : Sponge) : Lanes :=
  permute P (padBlock rate (settleChunk P rate sp))

/-- One block of a squeeze: `OUT[o + j] <- sbyte(j)` for `j` in 0..n-1 (R79). -/
def squeezeBlock (A : Lanes) (o : Nat) (out : Memory) : Nat → Memory
  | 0 => out
  | n + 1 => (squeezeBlock A o out n).write (o + n) (sbyte A n)

/-- The loop of `Squeeze()` from output byte `o` on (R79). The first argument bounds the blocks still to come. -/
def squeezeFrom (P : Params) (rate q : Nat) : Nat → Nat → Lanes → Memory → Lanes × Memory
  | 0, _, A, out => (A, out)
  | blocks + 1, o, A, out =>
    let n := min rate (q - o)
    let out' := squeezeBlock A o out n
    if o + n < q then squeezeFrom P rate q blocks (o + n) (permute P A) out' else (A, out')

/-- `Squeeze()` (R79): the lanes after the last block, which no permutation follows, and the buffer. A block of at
least one byte each makes `q + 1` blocks enough (log entry 20). -/
def squeeze (P : Params) (rate q : Nat) (A : Lanes) (out : Memory) : Lanes × Memory :=
  squeezeFrom P rate q (q + 1) 0 A out

/-- What INIT does at completion (R81). -/
def initEffect (s : State) : State :=
  { s with lanes := zeroLanes, out := [], pos := 0, msgLen := 0, phase := .absorbing }

/-- `INIT` (R81): a digest starts from a fresh zero state. -/
def execInit (s : State) : Host.Outcome State Fault Refusal := runCommand .init initEffect s

/-- What ABSORB does at completion (R82), on the `DIN` value sampled at acceptance. -/
def absorbEffect (n : BitVec 4) (s : State) : State :=
  let sp := absorbBytes s.params s.rateBytes { lanes := s.lanes, pos := s.pos } (dinBytes s.latch.din n)
  { s with lanes := sp.lanes, pos := sp.pos, msgLen := s.msgLen + n.zeroExtend 64 }

/-- `ABSORB n` (R82): `n` message bytes of chaining round 1. -/
def execAbsorb (n : BitVec 4) (s : State) : Host.Outcome State Fault Refusal :=
  runCommand (.absorb n) (absorbEffect n) s

end Sys2Proof.Machine
end

