-- ==== Sys2Proof/Machine/Chaining.lean ====
section
/-! DEFINITION. The outer chaining loop (43_chaining.md) and the FINAL command. -/

namespace Sys2Proof.Machine

/-- `ChainRound(OUT[0 .. q-1], q)` (R83): a zero state absorbs the whole of the previous round's output before the
squeeze replaces it (R85). Answers the lanes the round leaves and the buffer. -/
def chainRound (P : Params) (rate q : Nat) (out : Memory) : Lanes × Memory :=
  squeeze P rate q (finishAbsorb P rate (absorbBytes P rate { lanes := zeroLanes, pos := 0 } (out.bytes q))) out

/-- `n` further chaining rounds after one that left the lanes and the buffer `st` (R86). -/
def chainRounds (P : Params) (rate q : Nat) : Nat → Lanes × Memory → Lanes × Memory
  | 0, st => st
  | n + 1, st => chainRounds P rate q n (chainRound P rate q st.2)

/-- The lanes and the buffer FINAL leaves (R86): chaining round 1 is finished from the sponge that INIT and ABSORB
left, and rounds 2 to `rounds` follow. -/
def finalRounds (P : Params) (rate q rounds : Nat) (sp : Sponge) (out : Memory) : Lanes × Memory :=
  chainRounds P rate q (rounds - 1) (squeeze P rate q (finishAbsorb P rate sp) out)

/-- What FINAL does at completion (R86). -/
def finalEffect (s : State) : State :=
  let st := finalRounds s.params s.rateBytes s.outBytes s.active.rounds.toNat { lanes := s.lanes, pos := s.pos } s.out
  { s with lanes := st.1, out := st.2, pos := 0, phase := .done, donePend := true }

/-- `FINAL` (R86): the message ends and the digest is left in `OUT`. -/
def execFinal (s : State) : Host.Outcome State Fault Refusal := runCommand .final finalEffect s

end Sys2Proof.Machine
end

