-- ==== Sys2Proof/Machine/Control.lean ====
section
/-! DEFINITION. The configuration and control commands (40_configuration_control.md): CONFIG, NOP and ABORT. -/

namespace Sys2Proof.Machine

/-- `NOP` (R65): at completion nothing changes but `BUSY`. -/
def execNop (s : State) : Host.Outcome State Fault Refusal := runCommand .nop (fun t => t) s

/-- What CONFIG does at completion (R63), on the staging values sampled at acceptance: they become the active
configuration if every check passes; otherwise `CFG_OK` is cleared and `E_CFG` is recorded. -/
def configEffect (s : State) : State :=
  let cause := validate s.params s.latch.cfg
  if cause = 0 then { s with active := s.latch.cfg, cfgOk := true, phase := .ready }
  else recordError .cfg Instr.config.opcode cause 0 { s with cfgOk := false, phase := .ready }

/-- `CONFIG` (R63). -/
def execConfig (s : State) : Host.Outcome State Fault Refusal := runCommand .config configEffect s

/-- What ABORT does at completion (R66): `OUT` and the configuration stay. -/
def abortEffect (s : State) : State :=
  { s with lanes := zeroLanes, pos := 0, msgLen := 0, phase := .ready }

/-- `ABORT` (R66): a digest in progress is abandoned. -/
def execAbort (s : State) : Host.Outcome State Fault Refusal := runCommand .abort abortEffect s

end Sys2Proof.Machine
end

