-- ==== Sys2Proof/Machine/Bus.lean ====
section
/-! DEFINITION. The events of the three agents (R16): a host read and write of the window (R41), a command word
presented to acceptance (R47, R90), the completion of the latched command (R48), and reset (R103). -/

namespace Sys2Proof.Machine

/-- The bus's answer to an access; the core's own state is untouched. -/
def answer (r : BusResponse) (s : State) : State := { s with response := some r }

/-- A bus error (R41): `E_BUS` with the offset, an error response, and no other effect. -/
def busError (a : Access) (r : BusResponse) (s : State) : State :=
  answer r (recordError .bus 0 0 a.off s)

/-- `MemRead` (R41, R43). A bus-error read returns 0. -/
def memRead (a : Access) (s : State) : State :=
  if a.whole s.params then answer (.read (readReg s (regAt a.off)) false) s else busError a (.read 0 true) s

/-- A write to `CMD` presents the word `c` (R47): the checks on the word, `E_BUSY` and then `E_ILLEGAL`, come first
(R90); a word that is a command goes on to its own acceptance. -/
def presentCommand (c : Word) (s : State) : Host.Outcome State Fault Refusal :=
  if s.busy then .next (recordError .busy (opField c) 0 0 s)
  else match decode c with
    | .error _ => .next (recordError .illegal (opField c) 0 0 s)
    | .ok i => exec i s

/-- `MemWrite` (R41, R44). -/
def memWrite (a : Access) (v : Word) (s : State) : Host.Outcome State Fault Refusal :=
  if a.whole s.params then
    if regAt a.off = .cmd then presentCommand v (answer (.write false) s)
    else .next (writeReg a.off v (answer (.write false) s) (regAt a.off))
  else .next (busError a (.write true) s)

/-- The completion of the latched command, enabled exactly when `BUSY = 1` (R48); without one the core does nothing
(R102). -/
def complete (s : State) : Host.Outcome State Fault Refusal :=
  if s.busy then
    match decode s.latch.word with
    | .error _ => .fault .latchHoldsNoCommand
    | .ok i => exec i s
  else .next s

/-- Reset (R103): every piece of state takes its reset value and an accepted command is abandoned. The events still to
come are the environment's and stay. -/
def resetEvent (s : State) : State := { State.resetWith s.params with events := s.events }

/-- One event (R49), already taken off the list of those to come. -/
def takeEvent (e : Event) (s : State) : Host.Outcome State Fault Refusal :=
  match e with
  | .hostRead a => .next (memRead a s)
  | .hostWrite a v => memWrite a v s
  | .coreComplete => complete s
  | .reset => .next (resetEvent s)

/-- The next event in the order they reach the core (R49, R50). When no event is left to come, an accepted command
completes: it must, under weak fairness (R48). -/
def nextEvent (s : State) : Host.Outcome State Fault Refusal :=
  match s.events with
  | [] => complete s
  | e :: rest => takeEvent e { s with events := rest }

/-- The whole access to the register at an offset (R41). -/
def Access.at (off : Nat) : Access where
  off := off
  width := 8
  enables := 0xFF

/-- The command word of a table row's bits: the bits above `nbits` are 0 (R54). -/
def commandWord (nbits w : Nat) : Word := BitVec.ofNat 64 (w % 2 ^ nbits)

end Sys2Proof.Machine
end

