-- ==== Sys2Proof/Machine/Step.lean ====
section
/-! DEFINITION. The step: one event of one agent (R49), from a state that keeps the invariants of R94. -/

namespace Sys2Proof.Machine

/-- One step of the machine: the next event, taken from a state that keeps the invariants of R94. -/
def step (s : State) : Host.Outcome State Fault Refusal := guarded s (nextEvent s)

/-- The machine about to take a command word. A word reaches the core as a host write to `CMD` (R54), so that write is
put before every other event to come; the core takes a command only when it is not busy (R90), so `BUSY` is 0
(log entry 8). -/
def State.withFetchWord (s : State) (nbits w : Nat) : State :=
  { s with busy := false, events := .hostWrite (Access.at 0x010) (commandWord nbits w) :: s.events }

end Sys2Proof.Machine
end

