-- ==== Sys2Proof/Safety.lean ====
section
/-! DEFINITION. The terms claims are stated in: a state the guard lets through, the invariant of every reachable
state, a run of the machine, the events of a digest, and the source's own formulation of the digest. -/

namespace Sys2Proof.Machine

/-- A state the guard lets through: the invariants of R94, under parameters R8 allows. -/
abbrev State.Sound (s : State) : Prop :=
  s.params.valid = true ∧ s.pos ≤ s.rateBytes ∧ (s.phase = .absorbing → s.cfgOk = true) ∧
    (s.cfgOk = true → 8 ≤ s.rateBytes ∧ s.rateBytes ≤ 200)

/-- The invariant of the core: R94's own clauses and what keeps them. -/
structure State.Inv (s : State) : Prop where
  /-- The parameters are ones R8 allows. -/
  paramsValid : s.params.valid = true
  /-- The active configuration passes every check of R62, also while `CFG_OK = 0`, when it keeps its old values (R63). -/
  activeLegal : validate s.params s.active = 0
  /-- `0 <= p <= rateBytes` (R77, R94). -/
  posInBlock : s.pos ≤ s.rateBytes
  /-- Outside a digest the position is 0 (R66, R81, R86). -/
  posIdle : s.phase ≠ .absorbing → s.pos = 0
  /-- `PHASE = ABSORBING` implies `CFG_OK = 1` (R59, R94). -/
  configured : s.phase = .absorbing → s.cfgOk = true
  /-- While `BUSY = 1` the latch holds a command that was legal when it was accepted and still is (R33, R90). -/
  latched : s.busy = true →
    ∃ i, decode s.latch.word = .ok i ∧ i.wf = true ∧ legalIn i s.phase = true ∧ (needsCfg i = true → s.cfgOk = true)
  /-- `OUT` keeps its canonical form. -/
  outWf : s.out.wf
  /-- `OUT` has `MAX_OUT_BYTES` bytes (R20). -/
  outBounded : ∀ c ∈ s.out, c.1 < s.params.maxOutBytes
  /-- `OUT` is cleared while a message is taken (R81). -/
  outCleared : s.phase = .absorbing → s.out = []
  /-- In DONE the bytes of `OUT` at `outputLengthBytes` and above are 0 (R20). -/
  outDigest : s.phase = .done → ∀ c ∈ s.out, c.1 < s.outBytes
  /-- `ERR_PEND = 1` exactly when `ERRINFO.CODE != 0` (R32). -/
  errAgrees : s.errPend = s.err
  /-- The reserved bits of `ERRINFO` are 0 (R31). -/
  errReserved : s.errInfo &&& 0xFFFF0000FF000000 = 0

/-- `k` steps of the machine. -/
abbrev run (k : Nat) (s : State) : Host.Outcome State Fault Refusal := Host.Core.run Sys2Proof.core k s

/-! ### The events of a digest (R61, R88) -/

/-- The host writes a command word and the core completes it. -/
def commandEvents (i : Instr) : List Event := [.hostWrite (Access.at 0x010) (encode i), .coreComplete]

/-- The host writes each group of message bytes to `DIN` and has it absorbed. -/
def absorbEvents (groups : List (Word × BitVec 4)) : List Event :=
  groups.flatMap fun g => .hostWrite (Access.at 0x018) g.1 :: commandEvents (.absorb g.2)

/-- INIT, the groups of the message, FINAL. -/
def digestEvents (groups : List (Word × BitVec 4)) : List Event :=
  commandEvents .init ++ absorbEvents groups ++ commandEvents .final

/-- The message bytes of the groups, in order. -/
def groupBytes (groups : List (Word × BitVec 4)) : List Byte := groups.flatMap fun g => dinBytes g.1 g.2

/-! ### The source's formulation (R78, R79, R80, R83, R87) -/

/-- XOR a block into the first bytes of the state. -/
def sourceBlock (A : Lanes) (block : List Byte) : Lanes :=
  block.zipIdx.foldl (fun A bi => sxor A bi.2 bi.1) A

/-- The padded final block: `rate` zero bytes, the remainder at its start, 0x06 after it, and 0x80 ORed into the last
byte (R78's quotation of the source). -/
def sourcePad (rate : Nat) (rest : List Byte) : List Byte :=
  (List.range rate).map fun i =>
    (if i = rest.length then 0x06 else rest[i]?.getD 0) ||| (if i + 1 = rate then 0x80 else 0)

/-- "Full-message absorption" (R80): every full chunk is absorbed and permuted until fewer than `rate` bytes remain,
then the padded block is absorbed and permuted. With `P_LAST_CHUNK_PERMUTED` false, a full last chunk is not permuted
before the padded block (conflict C2). The first argument bounds the chunks. -/
def sourceAbsorb (P : Params) (rate : Nat) : Nat → Lanes → List Byte → Lanes
  | 0, A, msg => permute P (sourceBlock A (sourcePad rate msg))
  | chunks + 1, A, msg =>
    if msg.length < rate then permute P (sourceBlock A (sourcePad rate msg))
    else if msg.length = rate ∧ P.lastChunkPermuted = false then
      permute P (sourceBlock (sourceBlock A msg) (sourcePad rate []))
    else sourceAbsorb P rate chunks (permute P (sourceBlock A (msg.take rate))) (msg.drop rate)

/-- The squeeze output (R79): block `j / rate` is taken after that many permutations. -/
def sourceSqueeze (P : Params) (rate q : Nat) (A : Lanes) : List Byte :=
  (List.range q).map fun j => sbyte ((permute P)^[j / rate] A) (j % rate)

/-- One chaining round over a byte sequence (R83). -/
def sourceRound (P : Params) (rate q : Nat) (theHash : List Byte) : List Byte :=
  sourceSqueeze P rate q (sourceAbsorb P rate theHash.length zeroLanes theHash)

/-- The digest (R84, R87): `rounds` chaining rounds, each over the output of the one before. -/
def sourceDigest (P : Params) (rate q rounds : Nat) (msg : List Byte) : List Byte :=
  (sourceRound P rate q)^[rounds] msg

end Sys2Proof.Machine
end

