-- ==== Sys2Proof/Certificates/Slice0/Obligations.lean ====
section
/-! DEFINITION. The statements about the core, one `def Obligations.<Name> : Prop` each, listed in OBLIGATIONS.json.
`s` is any state; `Sound s` says that the guard of R94 lets it through (log entry 10). A completing command is one with
`BUSY = 1` (log entry 7); that the hidden latch keeps its contents is the model's choice (log entry 16). A statement about
`step` takes the order of the events from the model's field `events` (log entry 5), lets an accepted command complete when
no event is left (log entry 6), and reads the bus's answer from the model's field `response` (log entry 13). -/

open Sys2Proof Sys2Proof.Machine

/-! ### Encoding -/

/-- What a step runs: a word written to `CMD` while the core is free is decoded and presented; the latched command
completes when the core takes its event, or when no event is left; and `withFetchWord` stands for the write. -/
def Obligations.StepRunsTheDecodedCommand : Prop :=
  (∀ (s : State) (a : Access) (c : Word) (i : Instr) (rest : List Event), s.busy = false →
    s.events = .hostWrite a c :: rest → a.whole s.params = true → regAt a.off = .cmd → decode c = .ok i →
    step s = exec i { s with events := rest, response := some (.write false) }) ∧
  (∀ (s : State) (i : Instr) (rest : List Event), s.busy = true → s.events = .coreComplete :: rest →
    decode s.latch.word = .ok i → step s = exec i { s with events := rest }) ∧
  (∀ (s : State) (i : Instr), s.busy = true → s.events = [] → decode s.latch.word = .ok i → step s = exec i s) ∧
  (∀ (s : State) (c : Word) (i : Instr), decode c = .ok i →
    step (s.withFetchWord 64 c.toNat) = exec i { s with busy := false, response := some (.write false) })

/-- The command words of R61, written out, decode to their commands. -/
def Obligations.WrittenWordsDecode : Prop :=
  decode 0x00 = .ok .nop ∧ decode 0x01 = .ok .config ∧ decode 0x02 = .ok .init ∧ decode 0x103 = .ok (.absorb 1) ∧
    decode 0x803 = .ok (.absorb 8) ∧ decode 0x04 = .ok .final ∧ decode 0x05 = .ok .permute ∧
    decode 0x06 = .ok .abort

/-- Decode and encode agree in both directions, with every operand at every value its field admits. -/
def Obligations.DecodeEncodeAgree : Prop :=
  ∀ (i : Instr) (c : Word), decode c = .ok i ↔ c = encode i

/-- R57's rows by match and mask: a word decodes to a command of a row exactly when the row's masked bits match. -/
def Obligations.RowsMatchByMask : Prop :=
  ∀ (i : Instr) (c : Word), (∃ j, decode c = .ok j ∧ j.opcode = i.opcode) ↔ c &&& i.rowMask = i.rowMatch

/-- R58: an illegal word written to a free core records `E_ILLEGAL` and has no other effect. -/
def Obligations.IllegalWordsAreRefused : Prop :=
  ∀ (s : State) (c : Word) (rest : List Event), s.Sound → s.busy = false →
    s.events = .hostWrite (Access.at 0x010) c :: rest →
    (7 ≤ opField c ∨ rsvField c ≠ 0 ∨ (nField c ≠ 0 ∧ opField c ≠ 0x03)) →
    step s = .next (recordError .illegal (opField c) 0 0 { s with events := rest, response := some (.write false) })

/-! ### Acceptance -/

/-- R90 and R47: the acceptance checks in their order, what each failing one records, and what acceptance latches. -/
def Obligations.CommandAcceptance : Prop :=
  ∀ (s : State) (c : Word) (rest : List Event), s.Sound → s.events = .hostWrite (Access.at 0x010) c :: rest →
    step s =
      let t : State := { s with events := rest, response := some (.write false) }
      let op := opField c
      let n := nField c
      .next (
        if s.busy = true then recordError .busy op 0 0 t
        else if 6 < op ∨ rsvField c ≠ 0 ∨ (n ≠ 0 ∧ op ≠ 0x03) then recordError .illegal op 0 0 t
        else if op = 0x03 ∧ (n = 0 ∨ 8 < n) then recordError .arg op 0 0 t
        else if (s.phase = .absorbing ∧ (op = 0x01 ∨ op = 0x05)) ∨
            (s.phase ≠ .absorbing ∧ (op = 0x03 ∨ op = 0x04)) then recordError .phase op 0 0 t
        else if op = 0x02 ∧ s.cfgOk = false then recordError .noCfg op 0 0 t
        else { t with latch := { op := op, n := n, din := s.din, cfg := s.staging }, busy := true })

/-- R90's frame, per command: one presented to a free core is refused, with the error record as the only change, or
is latched. -/
def Obligations.PresentedCommandChangesRecordOrLatch : Prop :=
  ∀ (i : Instr) (s : State), s.Sound → s.busy = false → ∃ t, exec i s = .next t ∧
    (t = { s with errInfo := t.errInfo, errPend := true } ∨
     t = { s with busy := true, latch := { op := i.opcode, n := i.operandN, din := s.din, cfg := s.staging } })

/-! ### Completion of each command: the whole next state -/

/-- R65: NOP changes nothing but `BUSY`. -/
def Obligations.NopCompletes : Prop :=
  ∀ s : State, s.Sound → s.busy = true → exec .nop s = .next { s with busy := false }

/-- R63, first case: staging values that pass every check of R62 become the active configuration. -/
def Obligations.ConfigInstallsLegalValues : Prop :=
  ∀ s : State, s.Sound → s.busy = true → s.latch.cfg.width = 1600 → s.latch.cfg.capacity.toNat % 64 = 0 →
    s.latch.cfg.capacity.toNat < 1600 → s.latch.cfg.outlen.toNat % 8 = 0 →
    s.latch.cfg.outlen.toNat ≤ 8 * s.params.maxOutBytes → s.latch.cfg.rounds ≠ 0 →
    exec .config s = .next { s with active := s.latch.cfg, cfgOk := true, phase := .ready, busy := false }

/-- R63, second case: staging values that fail a check clear `CFG_OK` and record `E_CFG` with the failed checks. -/
def Obligations.ConfigRejectsIllegalValues : Prop :=
  ∀ s : State, s.Sound → s.busy = true → validate s.params s.latch.cfg ≠ 0 →
    exec .config s = .next
      { s with
        cfgOk := false
        phase := .ready
        busy := false
        errInfo := if s.errInfo.extractLsb' 0 8 = 0 then
            0#40 ++ validate s.params s.latch.cfg ++ 0x01#8 ++ 0x01#8 else s.errInfo
        errPend := true }

/-- R62: each cause bit is set exactly when its check fails, there is no cause exactly at the legal values, and at those
`rateBytes` is a multiple of 8 from 8 to 200. -/
def Obligations.ValidateCauseBits : Prop :=
  ∀ (P : Params) (w c o r : Half),
    let cause := validate P { width := w, capacity := c, outlen := o, rounds := r }
    (cause.getLsbD 0 = true ↔ w.toNat % 64 ≠ 0) ∧ (cause.getLsbD 1 = true ↔ c.toNat % 64 ≠ 0) ∧
    (cause.getLsbD 2 = true ↔ w ≤ c) ∧ (cause.getLsbD 3 = true ↔ o.toNat % 8 ≠ 0) ∧
    (cause.getLsbD 4 = true ↔ w ≠ 1600) ∧ (cause.getLsbD 5 = true ↔ 8 * P.maxOutBytes < o.toNat) ∧
    (cause.getLsbD 6 = true ↔ r = 0) ∧ cause.getLsbD 7 = false ∧
    (cause = 0 ↔ w = 1600 ∧ c.toNat % 64 = 0 ∧ c.toNat ≤ 1536 ∧ o.toNat % 8 = 0 ∧ o.toNat ≤ 8 * P.maxOutBytes ∧
      1 ≤ r.toNat) ∧
    (cause = 0 → (w.toNat - c.toNat) / 8 % 8 = 0 ∧ 8 ≤ (w.toNat - c.toNat) / 8 ∧ (w.toNat - c.toNat) / 8 ≤ 200)

/-- R66: ABORT zeroes the lanes, `p` and `MSGLEN` and enters READY. -/
def Obligations.AbortCompletes : Prop :=
  ∀ s : State, s.Sound → s.busy = true →
    exec .abort s =
      .next { s with lanes := Vector.replicate 25 0, pos := 0, msgLen := 0, phase := .ready, busy := false }

/-- R81: INIT zeroes the lanes and the whole of `OUT`, `p` and `MSGLEN`, and enters ABSORBING. -/
def Obligations.InitCompletes : Prop :=
  ∀ s : State, s.Sound → s.busy = true →
    exec .init s = .next
      { s with lanes := Vector.replicate 25 0, out := [], pos := 0, msgLen := 0, phase := .absorbing, busy := false } ∧
    ∀ a, Memory.read [] a = 0

/-- R76: PERMUTE applies the permutation to the lane file. -/
def Obligations.PermuteCompletes : Prop :=
  ∀ s : State, s.Sound → s.busy = true →
    exec .permute s = .next { s with lanes := permute s.params s.lanes, busy := false }

/-- R82: ABSORB takes the `n` low bytes of the sampled `DIN` in order, and counts them. -/
def Obligations.AbsorbCompletes : Prop :=
  ∀ (s : State) (n : BitVec 4), s.Sound → s.busy = true → ∃ sp : Sponge,
    sp = (List.range n.toNat).foldl
      (fun sp k => absorbByte s.params s.rateBytes sp (s.latch.din.extractLsb' (8 * k) 8)) ⟨s.lanes, s.pos⟩ ∧
    exec (.absorb n) s = .next
      { s with lanes := sp.lanes, pos := sp.pos, msgLen := s.msgLen + BitVec.ofNat 64 n.toNat, busy := false }

/-- R86: FINAL finishes chaining round 1 and runs the rounds 2 to `act_rounds`, each over the buffer the one before
left. -/
def Obligations.FinalCompletes : Prop :=
  ∀ s : State, s.Sound → s.busy = true →
    let first := squeeze s.params s.rateBytes s.outBytes (finishAbsorb s.params s.rateBytes ⟨s.lanes, s.pos⟩) s.out
    let last := (fun st : Lanes × Memory => chainRound s.params s.rateBytes s.outBytes st.2)^[s.active.rounds.toNat - 1]
      first
    exec .final s = .next
      { s with lanes := last.1, out := last.2, pos := 0, phase := .done, donePend := true, busy := false }

/-- R86 and R20, the frame of FINAL in memory: the bytes of `OUT` at `outputLengthBytes` and above stay. -/
def Obligations.FinalKeepsBytesAboveTheOutput : Prop :=
  ∀ s t : State, s.Sound → s.busy = true → s.out.wf → exec .final s = .next t →
    ∀ a, s.outBytes ≤ a → t.out.read a = s.out.read a

/-! ### The permutation -/

/-- R12: the rotation moves bit `i` to bit `(i + n) mod 64`. -/
def Obligations.RotateMovesEachBit : Prop :=
  ∀ (v : Word) (n i : Nat), i < 64 → (rotl64 v n).getLsbD ((i + n) % 64) = v.getLsbD i

/-- R13: `sxor(i, b)` changes byte `i` of the state, by XOR with `b`, and no other byte. -/
def Obligations.SxorTouchesOneByte : Prop :=
  ∀ (A : Lanes) (i j : Nat) (b : Byte), i < 200 → j < 200 →
    sbyte (sxor A i b) j = if j = i then sbyte A j ^^^ b else sbyte A j

/-- R69: theta, lane by lane. -/
def Obligations.ThetaOfEachLane : Prop :=
  ∀ (A : Lanes) (x y : Fin 5),
    let C := fun x : Fin 5 => lane A x 0 ^^^ lane A x 1 ^^^ lane A x 2 ^^^ lane A x 3 ^^^ lane A x 4
    lane (theta A) x y = lane A x y ^^^ (C (x + 4) ^^^ rotl64 (C (x + 1)) 1)

/-- R71: the fused walk is the two-step form: every lane but (0, 0) is rotated by its own offset and moved, and
lane (0, 0) stays. -/
def Obligations.RhoPiClosedForm : Prop :=
  ∀ (rho : Vector (Vector Nat 5) 5) (A : Lanes),
    lane (rhoPi rho A) 0 0 = lane A 0 0 ∧
    ∀ x y : Fin 5, (x, y) ≠ (0, 0) → lane (rhoPi rho A) y (2 * x + 3 * y) = rotl64 (lane A x y) rho[x][y]

/-- R72: chi, lane by lane, from the row as it stood. -/
def Obligations.ChiOfEachLane : Prop :=
  ∀ (A : Lanes) (x y : Fin 5),
    lane (chi A) x y = lane A x y ^^^ (~~~lane A (x + 1) y &&& lane A (x + 2) y)

/-- R73: iota changes lane (0, 0) only. -/
def Obligations.IotaChangesLaneZeroOnly : Prop :=
  ∀ (rc : Word) (A : Lanes) (x y : Fin 5),
    lane (iota rc A) x y = if x = 0 ∧ y = 0 then lane A 0 0 ^^^ rc else lane A x y

/-- R74 and R75: the permutation is the rounds 0 to 23 in order, each theta, rho+pi, chi and iota with its own
constant. -/
def Obligations.PermuteIsTwentyFourRounds : Prop :=
  ∀ (P : Params) (A : Lanes),
    permute P A = (List.finRange 24).foldl (fun A ir => iota P.rc[ir] (chi (rhoPi P.rho (theta A)))) A

/-! ### The sponge and the chaining loop -/

/-- R77: the position after a message of `L` bytes absorbed from position 0. -/
def Obligations.AbsorbPositionFormula : Prop :=
  ∀ (P : Params) (rate : Nat) (A : Lanes) (bs : List Byte), 0 < rate →
    (absorbBytes P rate ⟨A, 0⟩ bs).pos =
      if bs = [] then 0 else bs.length - rate * ((bs.length + rate - 1) / rate - 1)

/-- R78: what the padding changes: byte `p` by 0x06 and the last byte of the block by 0x80, both where they coincide. -/
def Obligations.PaddingMarksTwoBytes : Prop :=
  ∀ (rate : Nat) (sp : Sponge) (j : Nat), sp.pos < rate → rate ≤ 200 → j < 200 →
    sbyte (padBlock rate sp) j =
      sbyte sp.lanes j ^^^ (if j = sp.pos then 0x06 else 0) ^^^ (if j = rate - 1 then 0x80 else 0)

/-- R80: absorbing byte by byte with the deferred permutation leaves the state the source's chunk-wise full-message
absorption leaves, in both readings of the exact-multiple case. -/
def Obligations.AbsorptionMatchesTheSource : Prop :=
  ∀ (P : Params) (rate : Nat) (A : Lanes) (msg : List Byte), 0 < rate →
    finishAbsorb P rate (absorbBytes P rate ⟨A, 0⟩ msg) = sourceAbsorb P rate msg.length A msg

/-- R79: what a squeeze writes, that it writes nothing else, and how many permutations it runs. -/
def Obligations.SqueezeWritesTheOutput : Prop :=
  ∀ (P : Params) (rate q : Nat) (A : Lanes) (out : Memory), 0 < rate → out.wf →
    (∀ j, j < q → (squeeze P rate q A out).2.read j = sbyte ((permute P)^[j / rate] A) (j % rate)) ∧
    (∀ a, q ≤ a → (squeeze P rate q A out).2.read a = out.read a) ∧
    (squeeze P rate q A out).1 = (permute P)^[(q - 1) / rate] A

/-- R83 and R85: a chaining round absorbs exactly the previous round's output, from a zero state. -/
def Obligations.ChainRoundHashesTheBuffer : Prop :=
  ∀ (P : Params) (rate q : Nat) (out : Memory), 0 < rate → out.wf →
    (chainRound P rate q out).2.bytes q =
      sourceSqueeze P rate q (sourceAbsorb P rate q (Vector.replicate 25 0) (out.bytes q))

/-- R82: a run of ABSORB commands absorbs the bytes of its groups in order, so how they are split does not matter. -/
def Obligations.AbsorbCommandsAbsorbTheirBytes : Prop :=
  ∀ (groups : List (Word × BitVec 4)) (s : State) (rest : List Event), s.Inv → s.busy = false → s.phase = .absorbing →
    (∀ g ∈ groups, 1 ≤ g.2 ∧ g.2 ≤ 8) → s.events = absorbEvents groups ++ rest →
    ∃ t, run (3 * groups.length) s = .next t ∧ t.events = rest ∧ t.busy = false ∧ t.phase = .absorbing ∧
      ⟨t.lanes, t.pos⟩ = absorbBytes s.params s.rateBytes ⟨s.lanes, s.pos⟩ (groupBytes groups) ∧
      t.msgLen = s.msgLen + BitVec.ofNat 64 (groupBytes groups).length

/-- R88: the digest. From any state of the invariant with a free, configured core, INIT, the message in groups and
FINAL leave in `OUT` the digest the source defines, whatever the groups. -/
def Obligations.DigestOfTheMessage : Prop :=
  ∀ (groups : List (Word × BitVec 4)) (s : State) (rest : List Event), s.Inv → s.busy = false → s.cfgOk = true →
    (∀ g ∈ groups, 1 ≤ g.2 ∧ g.2 ≤ 8) → s.events = digestEvents groups ++ rest →
    ∃ t, run (digestEvents groups).length s = .next t ∧ t.events = rest ∧ t.busy = false ∧ t.phase = .done ∧
      t.donePend = true ∧ t.msgLen = BitVec.ofNat 64 (groupBytes groups).length ∧
      t.out.bytes s.outBytes =
        sourceDigest s.params s.rateBytes s.outBytes s.active.rounds.toNat (groupBytes groups)

/-! ### Host accesses -/

/-- R41: an access that is not whole records `E_BUS`, answers an error, and changes nothing else; a read gives 0. -/
def Obligations.BusErrors : Prop :=
  ∀ (s : State) (a : Access) (rest : List Event), s.Sound →
    (a.off % 8 ≠ 0 ∨ 0x200 + s.params.maxOutBytes ≤ a.off ∨ a.width ≠ 8 ∨ a.enables ≠ 0xFF) →
    (s.events = .hostRead a :: rest →
      step s = .next (recordError .bus 0 0 a.off { s with events := rest, response := some (.read 0 true) })) ∧
    (∀ v, s.events = .hostWrite a v :: rest →
      step s = .next (recordError .bus 0 0 a.off { s with events := rest, response := some (.write true) }))

/-- R43: a whole read answers the register's value and has no side effect. -/
def Obligations.ReadsHaveNoSideEffect : Prop :=
  ∀ (s : State) (off : Nat) (rest : List Event), s.Sound → off % 8 = 0 → off < 0x200 + s.params.maxOutBytes →
    s.events = .hostRead (Access.at off) :: rest →
    step s = .next { s with events := rest, response := some (.read (readReg s (regAt off)) false) }

/-- R38: the register map, offset by offset. -/
def Obligations.RegisterMap : Prop :=
  regAt 0x000 = .id ∧ regAt 0x008 = .status ∧ regAt 0x010 = .cmd ∧ regAt 0x018 = .din ∧ regAt 0x020 = .cfgWidth ∧
  regAt 0x028 = .cfgCapacity ∧ regAt 0x030 = .cfgOutlen ∧ regAt 0x038 = .cfgRounds ∧ regAt 0x040 = .rateBytes ∧
  regAt 0x048 = .outBytes ∧ regAt 0x050 = .rounds ∧ regAt 0x058 = .msgLen ∧ regAt 0x060 = .spos ∧
  regAt 0x068 = .errInfo ∧ regAt 0x070 = .int ∧ regAt 0x078 = .reserved ∧
  (∀ i, i < 25 → regAt (0x080 + 8 * i) = .lane i) ∧ (∀ off, 0x148 ≤ off → off < 0x200 → regAt off = .reserved) ∧
  (∀ j, regAt (0x200 + 8 * j) = .outw j)

/-- R21: the fields of `ID`. -/
def Obligations.IdRegister : Prop :=
  ∀ s : State, s.params.valid = true → (readReg s .id).extractLsb' 32 32 = 0x464C5859 ∧
    ((readReg s .id).extractLsb' 16 16).toNat = s.params.maxOutBytes / 8 ∧ (readReg s .id).extractLsb' 0 16 = 7

/-- R22: the fields of `STATUS`. -/
def Obligations.StatusRegister : Prop :=
  ∀ s : State, (readReg s .status).getLsbD 0 = s.busy ∧
    (readReg s .status).extractLsb' 1 2 = (match s.phase with | .ready => 0 | .absorbing => 1 | .done => 2) ∧
    (readReg s .status).getLsbD 3 = s.cfgOk ∧
    ((readReg s .status).getLsbD 4 = true ↔ s.errInfo.extractLsb' 0 8 ≠ 0) ∧
    ((readReg s .status).getLsbD 5 = true ↔ s.phase = .absorbing ∧ s.pos = s.rateBytes) ∧
    (readReg s .status).extractLsb' 6 58 = 0

/-- R32 and R95: the bits of `INT` and the level of the interrupt output. -/
def Obligations.InterruptRegisterAndLine : Prop :=
  ∀ s : State, (readReg s .int).getLsbD 0 = s.donePend ∧ (readReg s .int).getLsbD 1 = s.errPend ∧
    (readReg s .int).extractLsb' 2 6 = 0 ∧ (readReg s .int).getLsbD 8 = s.doneEn ∧
    (readReg s .int).getLsbD 9 = s.errEn ∧ (readReg s .int).extractLsb' 10 54 = 0 ∧
    (s.irq = true ↔ (s.donePend = true ∧ s.doneEn = true) ∨ (s.errPend = true ∧ s.errEn = true))

/-- R26: the three registers that show the active configuration. -/
def Obligations.ActiveConfigurationRegisters : Prop :=
  ∀ s : State, s.Inv →
    ((readReg s .rateBytes).toNat =
      if s.cfgOk = true then (s.active.width.toNat - s.active.capacity.toNat) / 8 else 0) ∧
    ((readReg s .outBytes).toNat = if s.cfgOk = true then s.active.outlen.toNat / 8 else 0) ∧
    ((readReg s .rounds).toNat = if s.cfgOk = true then s.active.rounds.toNat else 0)

/-- R27, R29, R30, R31, R25, R28: the registers that show one piece of state each. -/
def Obligations.PlainRegisters : Prop :=
  ∀ s : State, s.Inv → readReg s .cmd = 0 ∧ readReg s .din = s.din ∧
    (readReg s .cfgWidth).toNat = s.staging.width.toNat ∧ (readReg s .cfgCapacity).toNat = s.staging.capacity.toNat ∧
    (readReg s .cfgOutlen).toNat = s.staging.outlen.toNat ∧ (readReg s .cfgRounds).toNat = s.staging.rounds.toNat ∧
    readReg s .msgLen = s.msgLen ∧ (readReg s .spos).toNat = s.pos ∧ readReg s .errInfo = s.errInfo ∧
    readReg s .reserved = 0

/-- R45, reads: a lane reads 0 while busy and its value otherwise. -/
def Obligations.LaneReads : Prop :=
  ∀ (s : State) (i : Fin 25), readReg s (.lane i.val) = if s.busy = true then 0 else s.lanes[i]

/-- R45, writes: refused with `E_ACCESS` while busy or in ABSORBING; otherwise the lane takes the value and nothing
else changes. -/
def Obligations.LaneWrites : Prop :=
  ∀ (s : State) (i : Fin 25) (v : Word) (rest : List Event), s.Sound →
    s.events = .hostWrite (Access.at (0x080 + 8 * i.val)) v :: rest →
    step s = .next (
      if s.busy = true ∨ s.phase = .absorbing then
        recordError .access 0 0 (0x080 + 8 * i.val) { s with events := rest, response := some (.write false) }
      else { s with events := rest, response := some (.write false), lanes := s.lanes.set i.val v })

/-- R46: byte `k` of `OUTW[j]` is `OUT[8j + k]`, and 0 while busy. -/
def Obligations.OutputWordBytes : Prop :=
  ∀ (s : State) (j k : Nat), k < 8 →
    (readReg s (.outw j)).extractLsb' (8 * k) 8 = if s.busy = true then 0 else s.out.read (8 * j + k)

/-- R42: a write to a read-only register or a reserved offset is ignored, without an error. -/
def Obligations.IgnoredWrites : Prop :=
  ∀ (s : State) (off : Nat) (v : Word) (rest : List Event), s.Sound → off % 8 = 0 →
    off < 0x200 + s.params.maxOutBytes →
    (off = 0x000 ∨ off = 0x008 ∨ (0x040 ≤ off ∧ off ≤ 0x068) ∨ off = 0x078 ∨ 0x148 ≤ off) →
    s.events = .hostWrite (Access.at off) v :: rest →
    step s = .next { s with events := rest, response := some (.write false) }

/-- R44: a write to `DIN` or to a staging register stores the value, at any time, and changes nothing else. -/
def Obligations.DinAndStagingWrites : Prop :=
  ∀ (s : State) (off : Nat) (v : Word) (rest : List Event), s.Sound →
    s.events = .hostWrite (Access.at off) v :: rest →
    let t : State := { s with events := rest, response := some (.write false) }
    (off = 0x018 → step s = .next { t with din := v }) ∧
    (off = 0x020 → step s = .next { t with staging := { s.staging with width := v.setWidth 32 } }) ∧
    (off = 0x028 → step s = .next { t with staging := { s.staging with capacity := v.setWidth 32 } }) ∧
    (off = 0x030 → step s = .next { t with staging := { s.staging with outlen := v.setWidth 32 } }) ∧
    (off = 0x038 → step s = .next { t with staging := { s.staging with rounds := v.setWidth 32 } })

/-- R44 and R93: a write to `INT` clears the pending bits that have a 1, `ERRINFO` with the error's, and sets the
enables; nothing else changes. -/
def Obligations.IntWrites : Prop :=
  ∀ (s : State) (v : Word) (rest : List Event), s.Sound → s.events = .hostWrite (Access.at 0x070) v :: rest →
    step s = .next { s with
      events := rest
      response := some (.write false)
      donePend := s.donePend && !v.getLsbD 0
      errPend := s.errPend && !v.getLsbD 1
      errInfo := if v.getLsbD 1 = true then 0 else s.errInfo
      doneEn := v.getLsbD 8
      errEn := v.getLsbD 9 }

/-- R91: the trap records the first error's fields, keeps the record while one stands, when it changes nothing, and
sets `ERR_PEND`. -/
def Obligations.FirstErrorIsRecorded : Prop :=
  ∀ (e : ErrorCode) (op cause : Byte) (off : Nat) (s : State),
    let t := recordError e op cause off s
    t = { s with errInfo := t.errInfo, errPend := true } ∧ t.err = true ∧ t.errInfo.extractLsb' 0 8 ≠ 0 ∧
    (s.errInfo.extractLsb' 0 8 ≠ 0 → t.errInfo = s.errInfo) ∧
    (s.errInfo.extractLsb' 0 8 ≠ 0 → s.errPend = true → t = s) ∧
    (s.errInfo.extractLsb' 0 8 = 0 → t.errInfo.extractLsb' 0 8 = e.code ∧ t.errInfo.extractLsb' 8 8 = op ∧
      t.errInfo.extractLsb' 16 8 = cause ∧ t.errInfo.extractLsb' 24 8 = 0 ∧
      t.errInfo.extractLsb' 32 16 = BitVec.ofNat 16 off ∧ t.errInfo.extractLsb' 48 16 = 0)

/-! ### Reset, the invariant and the whole machine -/

/-- R104: what reset leaves, for every value of the parameters. The last clause is the model's choice: `State.reset` is
the core with the default parameters (log entry 4, and entries 2 and 3 for their values). -/
def Obligations.ResetValues : Prop :=
  ∀ P : Params,
    let s := State.resetWith P
    (∀ i : Fin 25, s.lanes[i] = 0) ∧ (∀ a, s.out.read a = 0) ∧ s.din = 0 ∧
    s.staging = { width := 1600, capacity := 1024, outlen := 2048, rounds := 12 } ∧
    s.active = { width := 1600, capacity := 1024, outlen := 2048, rounds := 12 } ∧
    readReg s .rateBytes = 72 ∧ readReg s .outBytes = 256 ∧ readReg s .rounds = 12 ∧ readReg s .status = 0x8 ∧
    readReg s .msgLen = 0 ∧ readReg s .spos = 0 ∧ readReg s .errInfo = 0 ∧ readReg s .int = 0 ∧ s.irq = false ∧
    s.latch = { op := 0, n := 0, din := 0, cfg := { width := 0, capacity := 0, outlen := 0, rounds := 0 } } ∧
    s.cfgOk = true ∧ s.busy = false ∧ s.phase = .ready ∧ readReg s .id = idWord P ∧
    State.reset = State.resetWith Params.standard

/-- R103: a reset event sets every piece of state to its reset value, also while a command is accepted. -/
def Obligations.ResetEvent : Prop :=
  ∀ (s : State) (rest : List Event), s.Sound → s.events = .reset :: rest →
    step s = .next { State.resetWith s.params with events := rest }

/-- R102: a free core with no event to come does nothing. -/
def Obligations.FreeCoreWaits : Prop :=
  ∀ s : State, s.Sound → s.busy = false → s.events = [] → step s = .next s

/-- R94 and R64: a broken invariant is a fault, and a parameter value that R8 does not allow is rejected: no step
goes on from them. R64 names only `MAX_OUT_BYTES < 256`: rejecting every other value outside R8 is the model's choice (log
entry 12), and so are the order of the checks and that they stand before every event, a reset and an idle step among them
(log entry 10). -/
def Obligations.BrokenInvariantsStop : Prop :=
  ∀ s : State,
    (s.params.valid = false → step s = .refused .invalidParameters) ∧
    (s.params.valid = true → s.rateBytes < s.pos → step s = .fault .positionAboveRate) ∧
    (s.params.valid = true → s.pos ≤ s.rateBytes → s.phase = .absorbing → s.cfgOk = false →
      step s = .fault .absorbingUnconfigured) ∧
    (s.params.valid = true → s.pos ≤ s.rateBytes → s.cfgOk = true → (s.rateBytes < 8 ∨ 200 < s.rateBytes) →
      step s = .fault .rateOutOfRange)

/-- A busy core whose latched word decodes to no command stops when the completion is due. The model's choice (log entry
11): the spec gives such a state no behaviour, and no state of the invariant is one. An all-zero latch is not one either:
its word decodes to NOP. -/
def Obligations.UndecodableLatchStops : Prop :=
  ∀ (s : State) (e : DecodeError), s.Sound → s.busy = true → decode s.latch.word = .error e →
    (s.events = [] ∨ ∃ rest, s.events = .coreComplete :: rest) → step s = .fault .latchHoldsNoCommand

/-- The invariant holds at reset, for every allowed value of the parameters, and so for the model's own `State.reset`
(log entry 4). -/
def Obligations.InvariantHoldsAtReset : Prop :=
  (∀ P : Params, P.valid = true → (State.resetWith P).Inv) ∧ State.reset.Inv

/-- Every step keeps the invariant. -/
def Obligations.StepKeepsTheInvariant : Prop :=
  ∀ s t : State, s.Inv → step s = .next t → t.Inv

/-- R94: no step from a state of the invariant stops. -/
def Obligations.InvariantStatesNeverStop : Prop :=
  ∀ s : State, s.Inv → ∃ t, step s = .next t

/-- R48: when the events to come have been taken, one more step leaves the core free: an accepted command has completed
by then, unless a reset among the events abandoned it. That it completes when no event is left is the model's form of weak
fairness (log entry 6). -/
def Obligations.AcceptedCommandsComplete : Prop :=
  ∀ s : State, s.Inv → ∃ t, run (s.events.length + 1) s = .next t ∧ t.busy = false

/-- R107 and R33: a completion reads only the latch: changing `DIN` and the staging registers changes nothing but
themselves. -/
def Obligations.CompletionIgnoresLiveOperands : Prop :=
  ∀ (i : Instr) (s t : State) (d : Word) (c : CfgWords), s.busy = true → exec i s = .next t →
    exec i { s with din := d, staging := c } = .next { t with din := d, staging := c }

/-- R26: only a completed CONFIG and reset write the active configuration, so it cannot change during a digest. -/
def Obligations.ActiveConfigurationChangesOnlyByConfig : Prop :=
  ∀ s t : State, s.Inv → step s = .next t → (t.active ≠ s.active ∨ t.cfgOk ≠ s.cfgOk) →
    (∃ rest, s.events = .reset :: rest) ∨
    (s.phase ≠ .absorbing ∧ s.busy = true ∧ decode s.latch.word = .ok .config ∧
      (s.events = [] ∨ ∃ rest, s.events = .coreComplete :: rest))

/-- R63: `E_CFG` is never recorded during a digest. -/
def Obligations.NoConfigurationErrorMidDigest : Prop :=
  ∀ s t : State, s.Inv → s.phase = .absorbing → step s = .next t → errCodeField t.errInfo = 0x01 →
    errCodeField s.errInfo = 0x01

/-- R17: no event writes the parameters. -/
def Obligations.NoStepWritesTheParameters : Prop :=
  ∀ s t : State, step s = .next t → t.params = s.params

/-- R23: while a command is in progress no host access disturbs it: the core stays busy with the same latch, lanes,
output, position and phase until the completion or a reset. -/
def Obligations.HostCannotDisturbABusyCore : Prop :=
  ∀ (s t : State) (e : Event) (rest : List Event), s.busy = true → s.events = e :: rest → e ≠ .coreComplete →
    e ≠ .reset → step s = .next t →
    t.busy = true ∧ t.latch = s.latch ∧ t.lanes = s.lanes ∧ t.out = s.out ∧ t.pos = s.pos ∧ t.phase = s.phase ∧
      t.msgLen = s.msgLen ∧ t.active = s.active ∧ t.cfgOk = s.cfgOk
end

