-- ==== Sys2Proof/Laws/Memory.lean ====
section
/-! SUPPORT. The output buffer: every operation keeps its canonical form; a read after a write gives the written byte
at its index and the old one elsewhere; two buffers in canonical form with the same bytes are equal. -/

namespace Sys2Proof.Machine

@[simp] theorem Memory.read_nil (a : Nat) : Memory.read [] a = Memory.unlisted := rfl

@[simp] theorem Memory.wf_nil : Memory.wf [] := ⟨List.Pairwise.nil, by simp⟩

theorem Memory.wf_cons {k : Nat} {b : Byte} {m : Memory} :
    Memory.wf ((k, b) :: m) ↔ (∀ c ∈ m, k < c.1) ∧ b ≠ Memory.unlisted ∧ Memory.wf m := by
  simp only [Memory.wf, List.pairwise_cons, List.forall_mem_cons]
  tauto

/-- A byte below every listed index is unlisted. -/
theorem Memory.read_below {a : Nat} : ∀ {m : Memory}, (∀ c ∈ m, a < c.1) → m.read a = Memory.unlisted
  | [], _ => rfl
  | (k, b) :: m, h => by
    have hk : a < k := h (k, b) (by simp)
    rw [Memory.read, if_neg (by omega)]
    exact Memory.read_below fun c hc => h c (by simp [hc])

/-- A byte that does not read as unlisted is listed. -/
theorem Memory.mem_of_read {a : Nat} : ∀ {m : Memory}, m.read a ≠ Memory.unlisted → (a, m.read a) ∈ m
  | [], h => absurd rfl h
  | (k, b) :: m, h => by
    rw [Memory.read] at h ⊢
    split at h
    · rename_i hk
      simp [hk]
    · rename_i hk
      simp [hk, Memory.mem_of_read h]

theorem Memory.read_cons_below {a c : Nat} {b : Byte} {m : Memory} (h : ∀ d ∈ m, a < d.1) :
    (Memory.cons a b m).read c = if c = a then b else m.read c := by
  unfold Memory.cons
  split
  · split
    · subst c b
      exact Memory.read_below h
    · rfl
  · rw [Memory.read]
    simp only [eq_comm]

/-- The read-after-write law of the buffer. -/
theorem Memory.read_write {a c : Nat} {b : Byte} :
    ∀ {m : Memory}, m.wf → (m.write a b).read c = if c = a then b else m.read c
  | [], _ => Memory.read_cons_below (by simp)
  | (k, d) :: m, h => by
    obtain ⟨hk, hd, hm⟩ := Memory.wf_cons.1 h
    rw [Memory.write]
    split
    · rename_i hak
      refine Memory.read_cons_below fun e he => ?_
      rcases List.mem_cons.1 he with rfl | he
      · exact hak
      · exact lt_trans hak (hk e he)
    · split
      · rename_i hak
        subst a
        rw [Memory.read_cons_below hk, Memory.read]
        split <;> rename_i hck
        · rfl
        · rw [if_neg (by omega)]
      · rename_i hlt hne
        rw [Memory.read, Memory.read_write hm, Memory.read]
        by_cases hkc : k = c
        · rw [if_pos hkc, if_neg (by omega), if_pos hkc]
        · rw [if_neg hkc, if_neg hkc]

/-- What a write can list: the byte written, or what was listed. -/
theorem Memory.mem_write {a : Nat} {b : Byte} {c : Host.Cell} :
    ∀ {m : Memory}, c ∈ m.write a b → c = (a, b) ∨ c ∈ m := by
  have key : ∀ m : Memory, c ∈ Memory.cons a b m → c = (a, b) ∨ c ∈ m := by
    intro m hc
    unfold Memory.cons at hc
    split at hc
    · exact .inr hc
    · exact List.mem_cons.1 hc
  intro m
  induction m with
  | nil => exact key []
  | cons e m ih =>
    obtain ⟨k, d⟩ := e
    intro hc
    rw [Memory.write] at hc
    split at hc
    · exact key _ hc
    · split at hc
      · exact (key m hc).imp_right (List.mem_cons_of_mem _)
      · rcases List.mem_cons.1 hc with h | h
        · exact .inr (by simp [h])
        · exact (ih h).imp_right (by simp_all)

theorem Memory.cons_wf {a : Nat} {b : Byte} {m : Memory} (hm : m.wf) (h : ∀ d ∈ m, a < d.1) :
    (Memory.cons a b m).wf := by
  unfold Memory.cons
  split
  · exact hm
  · rename_i hb
    exact Memory.wf_cons.2 ⟨h, hb, hm⟩

/-- A write keeps the canonical form. -/
theorem Memory.write_wf {a : Nat} {b : Byte} : ∀ {m : Memory}, m.wf → (m.write a b).wf
  | [], _ => Memory.cons_wf Memory.wf_nil (by simp)
  | (k, d) :: m, h => by
    obtain ⟨hk, hd, hm⟩ := Memory.wf_cons.1 h
    rw [Memory.write]
    split
    · rename_i hak
      refine Memory.cons_wf h fun e he => ?_
      rcases List.mem_cons.1 he with rfl | he
      · exact hak
      · exact lt_trans hak (hk e he)
    · split
      · rename_i hak
        subst a
        exact Memory.cons_wf hm hk
      · rename_i hlt hne
        refine Memory.wf_cons.2 ⟨fun c hc => ?_, hd, Memory.write_wf hm⟩
        rcases Memory.mem_write hc with rfl | hc
        · show k < a
          omega
        · exact hk c hc

/-- Reset's buffer has the canonical form. -/
theorem State.reset_out_wf (P : Params) : (State.resetWith P).out.wf := Memory.wf_nil

/-- Equal bytes make equal buffers: the form is canonical. -/
theorem Memory.ext_of_wf : ∀ {m m' : Memory}, m.wf → m'.wf → (∀ a, m.read a = m'.read a) → m = m'
  | [], [], _, _, _ => rfl
  | [], (k, b) :: m', _, h', he => by
    have := he k
    rw [Memory.read_nil, Memory.read, if_pos rfl] at this
    exact absurd this.symm (Memory.wf_cons.1 h').2.1
  | (k, b) :: m, [], h, _, he => by
    have := he k
    rw [Memory.read_nil, Memory.read, if_pos rfl] at this
    exact absurd this (Memory.wf_cons.1 h).2.1
  | (k, b) :: m, (k', b') :: m', h, h', he => by
    obtain ⟨hk, hb, hm⟩ := Memory.wf_cons.1 h
    obtain ⟨hk', hb', hm'⟩ := Memory.wf_cons.1 h'
    have hkk : k = k' := by
      rcases Nat.lt_trichotomy k k' with hlt | heq | hgt
      · have := he k
        rw [Memory.read, if_pos rfl, Memory.read_below] at this
        · exact absurd this hb
        · intro c hc
          rcases List.mem_cons.1 hc with rfl | hc
          · exact hlt
          · exact lt_trans hlt (hk' c hc)
      · exact heq
      · have := he k'
        rw [Memory.read_below, Memory.read, if_pos rfl] at this
        · exact absurd this.symm hb'
        · intro c hc
          rcases List.mem_cons.1 hc with rfl | hc
          · exact hgt
          · exact lt_trans hgt (hk c hc)
    subst k'
    have hbb : b = b' := by simpa [Memory.read] using he k
    subst b'
    rw [Memory.ext_of_wf hm hm' fun a => ?_]
    by_cases ha : k = a
    · subst a
      rw [Memory.read_below hk, Memory.read_below hk']
    · simpa [Memory.read, ha] using he a

end Sys2Proof.Machine
end

