-- ==== Sys2Proof/Laws/State.lean ====
section
/-! SUPPORT. What each named update of the state does to each field, so that no later proof unfolds one. -/

namespace Sys2Proof.Machine

variable (s : State)

/-! ### The fields after recording an error (R91) -/

@[simp] theorem recordError_params (e : ErrorCode) (op cause : Byte) (off : Nat) :
    (recordError e op cause off s).params = s.params := rfl
@[simp] theorem recordError_lanes (e : ErrorCode) (op cause : Byte) (off : Nat) :
    (recordError e op cause off s).lanes = s.lanes := rfl
@[simp] theorem recordError_out (e : ErrorCode) (op cause : Byte) (off : Nat) :
    (recordError e op cause off s).out = s.out := rfl
@[simp] theorem recordError_din (e : ErrorCode) (op cause : Byte) (off : Nat) :
    (recordError e op cause off s).din = s.din := rfl
@[simp] theorem recordError_staging (e : ErrorCode) (op cause : Byte) (off : Nat) :
    (recordError e op cause off s).staging = s.staging := rfl
@[simp] theorem recordError_active (e : ErrorCode) (op cause : Byte) (off : Nat) :
    (recordError e op cause off s).active = s.active := rfl
@[simp] theorem recordError_cfgOk (e : ErrorCode) (op cause : Byte) (off : Nat) :
    (recordError e op cause off s).cfgOk = s.cfgOk := rfl
@[simp] theorem recordError_busy (e : ErrorCode) (op cause : Byte) (off : Nat) :
    (recordError e op cause off s).busy = s.busy := rfl
@[simp] theorem recordError_phase (e : ErrorCode) (op cause : Byte) (off : Nat) :
    (recordError e op cause off s).phase = s.phase := rfl
@[simp] theorem recordError_msgLen (e : ErrorCode) (op cause : Byte) (off : Nat) :
    (recordError e op cause off s).msgLen = s.msgLen := rfl
@[simp] theorem recordError_pos (e : ErrorCode) (op cause : Byte) (off : Nat) :
    (recordError e op cause off s).pos = s.pos := rfl
@[simp] theorem recordError_errInfo (e : ErrorCode) (op cause : Byte) (off : Nat) :
    (recordError e op cause off s).errInfo = (if errCodeField s.errInfo = 0 then packError e op cause off else s.errInfo) := rfl
@[simp] theorem recordError_donePend (e : ErrorCode) (op cause : Byte) (off : Nat) :
    (recordError e op cause off s).donePend = s.donePend := rfl
@[simp] theorem recordError_errPend (e : ErrorCode) (op cause : Byte) (off : Nat) :
    (recordError e op cause off s).errPend = true := rfl
@[simp] theorem recordError_doneEn (e : ErrorCode) (op cause : Byte) (off : Nat) :
    (recordError e op cause off s).doneEn = s.doneEn := rfl
@[simp] theorem recordError_errEn (e : ErrorCode) (op cause : Byte) (off : Nat) :
    (recordError e op cause off s).errEn = s.errEn := rfl
@[simp] theorem recordError_latch (e : ErrorCode) (op cause : Byte) (off : Nat) :
    (recordError e op cause off s).latch = s.latch := rfl
@[simp] theorem recordError_events (e : ErrorCode) (op cause : Byte) (off : Nat) :
    (recordError e op cause off s).events = s.events := rfl
@[simp] theorem recordError_response (e : ErrorCode) (op cause : Byte) (off : Nat) :
    (recordError e op cause off s).response = s.response := rfl
@[simp] theorem recordError_rateBytes (e : ErrorCode) (op cause : Byte) (off : Nat) : (recordError e op cause off s).rateBytes = s.rateBytes := rfl
@[simp] theorem recordError_outBytes (e : ErrorCode) (op cause : Byte) (off : Nat) : (recordError e op cause off s).outBytes = s.outBytes := rfl

/-! ### The fields after clearing the error record (R93) -/

@[simp] theorem clearError_params : (clearError s).params = s.params := rfl
@[simp] theorem clearError_lanes : (clearError s).lanes = s.lanes := rfl
@[simp] theorem clearError_out : (clearError s).out = s.out := rfl
@[simp] theorem clearError_din : (clearError s).din = s.din := rfl
@[simp] theorem clearError_staging : (clearError s).staging = s.staging := rfl
@[simp] theorem clearError_active : (clearError s).active = s.active := rfl
@[simp] theorem clearError_cfgOk : (clearError s).cfgOk = s.cfgOk := rfl
@[simp] theorem clearError_busy : (clearError s).busy = s.busy := rfl
@[simp] theorem clearError_phase : (clearError s).phase = s.phase := rfl
@[simp] theorem clearError_msgLen : (clearError s).msgLen = s.msgLen := rfl
@[simp] theorem clearError_pos : (clearError s).pos = s.pos := rfl
@[simp] theorem clearError_errInfo : (clearError s).errInfo = 0 := rfl
@[simp] theorem clearError_donePend : (clearError s).donePend = s.donePend := rfl
@[simp] theorem clearError_errPend : (clearError s).errPend = false := rfl
@[simp] theorem clearError_doneEn : (clearError s).doneEn = s.doneEn := rfl
@[simp] theorem clearError_errEn : (clearError s).errEn = s.errEn := rfl
@[simp] theorem clearError_latch : (clearError s).latch = s.latch := rfl
@[simp] theorem clearError_events : (clearError s).events = s.events := rfl
@[simp] theorem clearError_response : (clearError s).response = s.response := rfl
@[simp] theorem clearError_rateBytes : (clearError s).rateBytes = s.rateBytes := rfl
@[simp] theorem clearError_outBytes : (clearError s).outBytes = s.outBytes := rfl

/-! ### The fields after latching a command (R47) -/

@[simp] theorem latchCommand_params (i : Instr) : (latchCommand i s).params = s.params := rfl
@[simp] theorem latchCommand_lanes (i : Instr) : (latchCommand i s).lanes = s.lanes := rfl
@[simp] theorem latchCommand_out (i : Instr) : (latchCommand i s).out = s.out := rfl
@[simp] theorem latchCommand_din (i : Instr) : (latchCommand i s).din = s.din := rfl
@[simp] theorem latchCommand_staging (i : Instr) : (latchCommand i s).staging = s.staging := rfl
@[simp] theorem latchCommand_active (i : Instr) : (latchCommand i s).active = s.active := rfl
@[simp] theorem latchCommand_cfgOk (i : Instr) : (latchCommand i s).cfgOk = s.cfgOk := rfl
@[simp] theorem latchCommand_busy (i : Instr) : (latchCommand i s).busy = true := rfl
@[simp] theorem latchCommand_phase (i : Instr) : (latchCommand i s).phase = s.phase := rfl
@[simp] theorem latchCommand_msgLen (i : Instr) : (latchCommand i s).msgLen = s.msgLen := rfl
@[simp] theorem latchCommand_pos (i : Instr) : (latchCommand i s).pos = s.pos := rfl
@[simp] theorem latchCommand_errInfo (i : Instr) : (latchCommand i s).errInfo = s.errInfo := rfl
@[simp] theorem latchCommand_donePend (i : Instr) : (latchCommand i s).donePend = s.donePend := rfl
@[simp] theorem latchCommand_errPend (i : Instr) : (latchCommand i s).errPend = s.errPend := rfl
@[simp] theorem latchCommand_doneEn (i : Instr) : (latchCommand i s).doneEn = s.doneEn := rfl
@[simp] theorem latchCommand_errEn (i : Instr) : (latchCommand i s).errEn = s.errEn := rfl
@[simp] theorem latchCommand_latch (i : Instr) :
    (latchCommand i s).latch = { op := i.opcode, n := i.operandN, din := s.din, cfg := s.staging } := rfl
@[simp] theorem latchCommand_events (i : Instr) : (latchCommand i s).events = s.events := rfl
@[simp] theorem latchCommand_response (i : Instr) : (latchCommand i s).response = s.response := rfl
@[simp] theorem latchCommand_rateBytes (i : Instr) : (latchCommand i s).rateBytes = s.rateBytes := rfl
@[simp] theorem latchCommand_outBytes (i : Instr) : (latchCommand i s).outBytes = s.outBytes := rfl

/-! ### The fields after answering a host access (R41) -/

@[simp] theorem answer_params (r : BusResponse) : (answer r s).params = s.params := rfl
@[simp] theorem answer_lanes (r : BusResponse) : (answer r s).lanes = s.lanes := rfl
@[simp] theorem answer_out (r : BusResponse) : (answer r s).out = s.out := rfl
@[simp] theorem answer_din (r : BusResponse) : (answer r s).din = s.din := rfl
@[simp] theorem answer_staging (r : BusResponse) : (answer r s).staging = s.staging := rfl
@[simp] theorem answer_active (r : BusResponse) : (answer r s).active = s.active := rfl
@[simp] theorem answer_cfgOk (r : BusResponse) : (answer r s).cfgOk = s.cfgOk := rfl
@[simp] theorem answer_busy (r : BusResponse) : (answer r s).busy = s.busy := rfl
@[simp] theorem answer_phase (r : BusResponse) : (answer r s).phase = s.phase := rfl
@[simp] theorem answer_msgLen (r : BusResponse) : (answer r s).msgLen = s.msgLen := rfl
@[simp] theorem answer_pos (r : BusResponse) : (answer r s).pos = s.pos := rfl
@[simp] theorem answer_errInfo (r : BusResponse) : (answer r s).errInfo = s.errInfo := rfl
@[simp] theorem answer_donePend (r : BusResponse) : (answer r s).donePend = s.donePend := rfl
@[simp] theorem answer_errPend (r : BusResponse) : (answer r s).errPend = s.errPend := rfl
@[simp] theorem answer_doneEn (r : BusResponse) : (answer r s).doneEn = s.doneEn := rfl
@[simp] theorem answer_errEn (r : BusResponse) : (answer r s).errEn = s.errEn := rfl
@[simp] theorem answer_latch (r : BusResponse) : (answer r s).latch = s.latch := rfl
@[simp] theorem answer_events (r : BusResponse) : (answer r s).events = s.events := rfl
@[simp] theorem answer_response (r : BusResponse) : (answer r s).response = some r := rfl
@[simp] theorem answer_rateBytes (r : BusResponse) : (answer r s).rateBytes = s.rateBytes := rfl
@[simp] theorem answer_outBytes (r : BusResponse) : (answer r s).outBytes = s.outBytes := rfl

end Sys2Proof.Machine
end

