-- ==== Sys2Proof/Laws/Ops.lean ====
section
/-! SUPPORT. What the shared operations can do: the guard, the two events of a command, acceptance, and the lanes and
bytes of the state. One lemma says all a guarded operation can answer; later proofs cite it. -/

namespace Sys2Proof.Machine

/-! ### The guard -/

theorem guarded_of_sound {s : State} (h : s.Sound) (go : Host.Outcome State Fault Refusal) : guarded s go = go := by
  obtain ⟨hp, hpos, hc, hr⟩ := h
  unfold guarded
  rw [if_neg (by simp [hp]), if_neg (by omega), if_neg, if_neg]
  · rintro ⟨hok, hn⟩
    exact hn (hr hok)
  · rintro ⟨ha, hf⟩
    simp [hc ha] at hf

/-- Whatever goes on past the guard comes from a sound state. -/
theorem guarded_next {s t : State} {go : Host.Outcome State Fault Refusal} (h : guarded s go = .next t) :
    s.Sound ∧ go = .next t := by
  unfold guarded at h
  split at h
  · cases h
  split at h
  · cases h
  split at h
  · cases h
  split at h
  · cases h
  · rename_i hp hpos hc hr
    refine ⟨⟨by simpa using hp, by omega, fun ha => ?_, fun hok => ?_⟩, h⟩
    · by_contra hf
      exact hc ⟨ha, by simpa using hf⟩
    · by_contra hn
      exact hr ⟨hok, hn⟩

/-- The guard looks at five fields only. -/
theorem guarded_congr {s s' : State} (go : Host.Outcome State Fault Refusal) (hp : s'.params = s.params)
    (hpos : s'.pos = s.pos) (ha : s'.active = s.active) (hph : s'.phase = s.phase) (hok : s'.cfgOk = s.cfgOk) :
    guarded s' go = guarded s go := by
  unfold guarded State.rateBytes
  rw [hp, hpos, ha, hph, hok]

/-- A guard inside a guard on the same fields is no second guard. -/
theorem guarded_guarded {s : State} (go : Host.Outcome State Fault Refusal) :
    guarded s (guarded s go) = guarded s go := by
  unfold guarded
  split
  · rfl
  split
  · rfl
  split
  · rfl
  split <;> rfl

theorem State.Inv.sound {s : State} (h : s.Inv) (hr : 8 ≤ s.rateBytes ∧ s.rateBytes ≤ 200) : s.Sound :=
  ⟨h.paramsValid, h.posInBlock, h.configured, fun _ => hr⟩

/-! ### The two events of a command -/

theorem runCommand_completes {i : Instr} {f : State → State} {s : State} (h : s.Sound) (hb : s.busy = true) :
    runCommand i f s = .next { f s with busy := false } := by
  rw [runCommand, guarded_of_sound h, if_pos hb]

theorem runCommand_presents {i : Instr} {f : State → State} {s : State} (h : s.Sound) (hb : s.busy = false) :
    runCommand i f s = .next (accept i s) := by
  rw [runCommand, guarded_of_sound h, if_neg (by simp [hb])]

/-- All that a command can answer a next state with. -/
theorem runCommand_next {i : Instr} {f : State → State} {s t : State} (h : runCommand i f s = .next t) :
    s.Sound ∧ ((s.busy = true ∧ t = { f s with busy := false }) ∨ (s.busy = false ∧ t = accept i s)) := by
  obtain ⟨hs, h⟩ := guarded_next h
  refine ⟨hs, ?_⟩
  split at h <;> rename_i hb <;> cases h
  · exact .inl ⟨hb, rfl⟩
  · exact .inr ⟨by simpa using hb, rfl⟩

/-- What acceptance can do: record one of the three errors of a command, or latch it. -/
theorem accept_cases (i : Instr) (s : State) :
    (i.wf = false ∧ accept i s = recordError .arg i.opcode 0 0 s) ∨
    (i.wf = true ∧ legalIn i s.phase = false ∧ accept i s = recordError .phase i.opcode 0 0 s) ∨
    (i.wf = true ∧ legalIn i s.phase = true ∧ needsCfg i = true ∧ s.cfgOk = false ∧
      accept i s = recordError .noCfg i.opcode 0 0 s) ∨
    (i.wf = true ∧ legalIn i s.phase = true ∧ (needsCfg i = true → s.cfgOk = true) ∧
      accept i s = latchCommand i s) := by
  unfold accept
  cases i.wf <;> cases legalIn i s.phase <;> cases needsCfg i <;> cases s.cfgOk <;> simp

/-! ### Lanes and bytes -/

theorem laneAt_of_lt (A : Lanes) {i : Nat} (h : i < 25) : laneAt A i = A[i] := by
  simp [laneAt, h]

theorem laneAt_of_ge (A : Lanes) {i : Nat} (h : 25 ≤ i) : laneAt A i = 0 := by
  simp [laneAt, h]

theorem lanes_ext {A B : Lanes} (h : ∀ i, i < 25 → laneAt A i = laneAt B i) : A = B := by
  refine Vector.ext fun i hi => ?_
  rw [← laneAt_of_lt A hi, ← laneAt_of_lt B hi, h i hi]

theorem laneAt_sxor (A : Lanes) (i : Nat) (b : Byte) (j : Nat) :
    laneAt (sxor A i b) j =
      if j = i / 8 ∧ j < 25 then laneAt A j ^^^ b.zeroExtend 64 <<< (i % 8 * 8) else laneAt A j := by
  by_cases hj : j < 25
  · simp only [laneAt_of_lt _ hj, sxor, Vector.getElem_setIfInBounds, hj, and_true]
    by_cases h : i / 8 = j
    · subst h
      simp [laneAt_of_lt _ hj]
    · rw [if_neg h, if_neg (Ne.symm h)]
  · rw [laneAt_of_ge _ (by omega), laneAt_of_ge _ (by omega)]
    simp [hj]

@[simp] theorem sxor_zero (A : Lanes) (i : Nat) : sxor A i 0 = A := by
  refine lanes_ext fun j _ => ?_
  rw [laneAt_sxor]
  simp

/-- Two XORs into one byte are one XOR with both. -/
theorem sxor_sxor_same (A : Lanes) (i : Nat) (b c : Byte) : sxor (sxor A i b) i c = sxor A i (b ^^^ c) := by
  refine lanes_ext fun j _ => ?_
  simp only [laneAt_sxor]
  split
  · rw [BitVec.xor_assoc]
    congr 1
    ext k hk
    simp
    grind
  · rfl

/-- XORs into the state commute. -/
theorem sxor_comm (A : Lanes) (i k : Nat) (b c : Byte) : sxor (sxor A i b) k c = sxor (sxor A k c) i b := by
  refine lanes_ext fun j _ => ?_
  simp only [laneAt_sxor]
  split <;> split <;> simp [BitVec.xor_assoc, BitVec.xor_comm (b.zeroExtend 64 <<< (i % 8 * 8))]

end Sys2Proof.Machine
end

