-- ==== Sys2Proof/Laws/Bus.lean ====
section
/-! SUPPORT. What the events of the three agents can do, and the step that takes them. -/

namespace Sys2Proof.Machine

theorem whole_at {P : Params} {off : Nat} (h8 : off % 8 = 0) (hw : off < P.win) : (Access.at off).whole P = true := by
  simp [Access.whole, Access.at, h8, hw]

/-- The offsets below the output buffer are in the window whatever its size. -/
theorem whole_at_fixed {P : Params} {off : Nat} (h8 : off % 8 = 0) (hw : off < 0x200) :
    (Access.at off).whole P = true :=
  whole_at h8 (by rw [Params.win]; omega)

/-- All that a step can answer a next state with: the event of a sound state. -/
theorem step_next {s t : State} (h : step s = .next t) : s.Sound ∧ nextEvent s = .next t := guarded_next h

theorem step_of_sound {s : State} (h : s.Sound) : step s = nextEvent s := guarded_of_sound h _

theorem nextEvent_nil {s : State} (h : s.events = []) : nextEvent s = complete s := by
  rw [nextEvent, h]

theorem nextEvent_cons {s : State} {e : Event} {rest : List Event} (h : s.events = e :: rest) :
    nextEvent s = takeEvent e { s with events := rest } := by
  rw [nextEvent, h]

/-- Each command has one effect, which `runCommand` wraps. -/
theorem exec_runs (i : Instr) : ∃ f : State → State, ∀ s, exec i s = runCommand i f s := by
  cases i <;> exact ⟨_, fun _ => rfl⟩

/-- A completion that goes on ran the latched command, or found the core free. -/
theorem complete_next {s t : State} (h : complete s = .next t) :
    (s.busy = true ∧ ∃ i, decode s.latch.word = .ok i ∧ exec i s = .next t) ∨ (s.busy = false ∧ t = s) := by
  unfold complete at h
  split at h
  · rename_i hb
    split at h
    · cases h
    · rename_i i hi
      exact .inl ⟨hb, i, hi, h⟩
  · rename_i hb
    cases h
    exact .inr ⟨by simpa using hb, rfl⟩

/-- A presented word that goes on was refused, or ran its command. -/
theorem presentCommand_next {c : Word} {s t : State} (h : presentCommand c s = .next t) :
    (s.busy = true ∧ t = recordError .busy (opField c) 0 0 s) ∨
    (s.busy = false ∧ (∃ e, decode c = .error e) ∧ t = recordError .illegal (opField c) 0 0 s) ∨
    (s.busy = false ∧ ∃ i, decode c = .ok i ∧ exec i s = .next t) := by
  unfold presentCommand at h
  split at h
  · rename_i hb
    cases h
    exact .inl ⟨hb, rfl⟩
  · rename_i hb
    have hb : s.busy = false := by simpa using hb
    split at h
    · rename_i e he
      cases h
      exact .inr (.inl ⟨hb, ⟨e, he⟩, rfl⟩)
    · rename_i i hi
      exact .inr (.inr ⟨hb, i, hi, h⟩)

/-- A host write that goes on was a bus error, presented a command word, or wrote another register. -/
theorem memWrite_next {a : Access} {v : Word} {s t : State} (h : memWrite a v s = .next t) :
    (a.whole s.params = false ∧ t = busError a (.write true) s) ∨
    (a.whole s.params = true ∧ regAt a.off = .cmd ∧ presentCommand v (answer (.write false) s) = .next t) ∨
    (a.whole s.params = true ∧ regAt a.off ≠ .cmd ∧
      t = writeReg a.off v (answer (.write false) s) (regAt a.off)) := by
  unfold memWrite at h
  split at h
  · rename_i hw
    split at h
    · rename_i hc
      exact .inr (.inl ⟨hw, hc, h⟩)
    · rename_i hc
      cases h
      exact .inr (.inr ⟨hw, hc, rfl⟩)
  · rename_i hw
    cases h
    exact .inl ⟨by simpa using hw, rfl⟩

/-! ### Runs -/

theorem run_zero (s : State) : run 0 s = .next s := rfl

theorem run_succ_of_step {s t : State} (k : Nat) (h : step s = .next t) : run (k + 1) s = run k t := by
  have h' : Sys2Proof.core.step s = .next t := h
  simp only [run, Host.Core.run, h']
  rfl

theorem run_succ_of_fault {s : State} {r : Fault} (k : Nat) (h : step s = .fault r) : run (k + 1) s = .fault r := by
  have h' : Sys2Proof.core.step s = .fault r := h
  simp only [run, Host.Core.run, h']
  rfl

theorem run_succ_of_refused {s : State} {r : Refusal} (k : Nat) (h : step s = .refused r) :
    run (k + 1) s = .refused r := by
  have h' : Sys2Proof.core.step s = .refused r := h
  simp only [run, Host.Core.run, h']
  rfl

/-- A run in two parts. -/
theorem run_add_of_run {s t : State} : ∀ {k : Nat} (l : Nat), run k s = .next t → run (k + l) s = run l t
  | 0, l, h => by
    rw [run_zero] at h
    cases h
    rw [Nat.zero_add]
  | k + 1, l, h => by
    cases hs : step s with
    | next s' =>
      rw [run_succ_of_step k hs] at h
      rw [Nat.succ_add_eq_add_succ, Nat.add_succ, run_succ_of_step (k + l) hs]
      exact run_add_of_run l h
    | fault r => cases (run_succ_of_fault k hs).symm.trans h
    | refused r => cases (run_succ_of_refused k hs).symm.trans h

end Sys2Proof.Machine
end

