-- ==== Sys2Proof/Laws/PerInstr.lean ====
section
/-! SUPPORT. Statements about every command, one lemma per constructor. -/

namespace Sys2Proof.Laws

/-- The encoding of a command carries the opcode of its row in bits 7:0, its count in bits 11:8, nothing above, and
matches its row of the opcode map by match and mask (R55, R57). -/
def EncodingFollowsTheTable.Statement (i : Instr) : Prop :=
  opField (encode i) = i.opcode ∧ nField (encode i) = i.operandN ∧ rsvField (encode i) = 0 ∧
    encode i &&& i.rowMask = i.rowMatch

theorem EncodingFollowsTheTable.nop : EncodingFollowsTheTable.Statement .nop := by
  unfold Statement; decide

theorem EncodingFollowsTheTable.config : EncodingFollowsTheTable.Statement .config := by
  unfold Statement; decide

theorem EncodingFollowsTheTable.init : EncodingFollowsTheTable.Statement .init := by
  unfold Statement; decide

theorem EncodingFollowsTheTable.absorb (n : BitVec 4) : EncodingFollowsTheTable.Statement (.absorb n) := by
  unfold Statement; revert n; decide

theorem EncodingFollowsTheTable.final : EncodingFollowsTheTable.Statement .final := by
  unfold Statement; decide

theorem EncodingFollowsTheTable.permute : EncodingFollowsTheTable.Statement .permute := by
  unfold Statement; decide

theorem EncodingFollowsTheTable.abort : EncodingFollowsTheTable.Statement .abort := by
  unfold Statement; decide

end Sys2Proof.Laws
end

