-- ==== Sys2Proof/Laws/Permutation.lean ====
section
/-! SUPPORT. The lanes of the permutation's building blocks. -/

namespace Sys2Proof.Machine

@[simp] theorem lane_lanesOf (f : Fin 5 → Fin 5 → Word) (x y : Fin 5) : lane (lanesOf f) x y = f x y := by
  unfold lane lanesOf
  rw [Vector.getElem_ofFn]
  congr 1 <;> ext <;> simp; omega

/-- Equal lanes at every position make equal lane files. -/
theorem lanes_ext_lane {A B : Lanes} (h : ∀ x y, lane A x y = lane B x y) : A = B := by
  refine Vector.ext fun i hi => ?_
  have := h ⟨i % 5, by omega⟩ ⟨i / 5, by omega⟩
  simpa [lane, Nat.mod_add_div] using this

/-- Writing a lane changes that position and no other. -/
theorem lane_set (A : Lanes) (v : Word) (x y x' y' : Fin 5) :
    lane (A.set (x.val + 5 * y.val) v) x' y' = if x' = x ∧ y' = y then v else lane A x' y' := by
  unfold lane
  rw [Vector.getElem_set]
  have : x.val + 5 * y.val = x'.val + 5 * y'.val ↔ x' = x ∧ y' = y := by
    constructor
    · intro h
      exact ⟨by ext; omega, by ext; omega⟩
    · rintro ⟨rfl, rfl⟩
      rfl
  simp only [this]

theorem walkAfter_zero (rho : Vector (Vector Nat 5) 5) (A : Lanes) :
    walkAfter rho A 0 = { x := 1, y := 0, current := lane A 1 0, lanes := A } := rfl

theorem walkAfter_succ (rho : Vector (Vector Nat 5) 5) (A : Lanes) (t : Nat) :
    walkAfter rho A (t + 1) = walkStep rho (walkAfter rho A t) := rfl

end Sys2Proof.Machine
end

