-- ==== Sys2Proof/Laws/Sponge.lean ====
section
/-! SUPPORT. The sponge's primitives, each said once: absorbing a byte, a block of a squeeze, and that squeezing keeps
the buffer's form. -/

namespace Sys2Proof.Machine

variable (P : Params) (rate q : Nat)

/-! ### Absorbing -/

theorem absorbByte_deferred {sp : Sponge} (b : Byte) (h : sp.pos = rate) :
    absorbByte P rate sp b = { lanes := sxor (permute P sp.lanes) 0 b, pos := 1 } := if_pos h

theorem absorbByte_within {sp : Sponge} (b : Byte) (h : sp.pos ≠ rate) :
    absorbByte P rate sp b = { lanes := sxor sp.lanes sp.pos b, pos := sp.pos + 1 } := if_neg h

@[simp] theorem absorbBytes_nil (sp : Sponge) : absorbBytes P rate sp [] = sp := rfl

@[simp] theorem absorbBytes_cons (sp : Sponge) (b : Byte) (bs : List Byte) :
    absorbBytes P rate sp (b :: bs) = absorbBytes P rate (absorbByte P rate sp b) bs := rfl

theorem absorbBytes_append (sp : Sponge) (bs cs : List Byte) :
    absorbBytes P rate sp (bs ++ cs) = absorbBytes P rate (absorbBytes P rate sp bs) cs := List.foldl_append ..

/-- The position stays in the block (R77). -/
theorem absorbByte_pos_le {sp : Sponge} (b : Byte) (hr : 1 ≤ rate) (h : sp.pos ≤ rate) :
    (absorbByte P rate sp b).pos ≤ rate := by
  unfold absorbByte
  split
  · exact hr
  · show sp.pos + 1 ≤ rate
    omega

theorem absorbBytes_pos_le (hr : 1 ≤ rate) : ∀ (bs : List Byte) {sp : Sponge}, sp.pos ≤ rate →
    (absorbBytes P rate sp bs).pos ≤ rate
  | [], _, h => h
  | b :: bs, _, h => absorbBytes_pos_le hr bs (absorbByte_pos_le P rate b hr h)

/-! ### Squeezing -/

theorem squeezeBlock_wf (A : Lanes) (o : Nat) {out : Memory} (h : out.wf) : ∀ n, (squeezeBlock A o out n).wf
  | 0 => h
  | n + 1 => Memory.write_wf (squeezeBlock_wf A o h n)

/-- A block writes the bytes `o .. o+n-1`, each from the state, and no other. -/
theorem squeezeBlock_read (A : Lanes) (o : Nat) {out : Memory} (h : out.wf) (a : Nat) : ∀ n,
    (squeezeBlock A o out n).read a = if o ≤ a ∧ a < o + n then sbyte A (a - o) else out.read a
  | 0 => by
    rw [if_neg (by omega)]
    rfl
  | n + 1 => by
    rw [squeezeBlock, Memory.read_write (squeezeBlock_wf A o h n), squeezeBlock_read A o h a n]
    by_cases ha : a = o + n
    · subst a
      simp
    · rw [if_neg ha]
      by_cases h' : o ≤ a ∧ a < o + n
      · rw [if_pos h', if_pos (by omega)]
      · rw [if_neg h', if_neg (by omega)]

theorem squeezeFrom_wf : ∀ (blocks o : Nat) (A : Lanes) {out : Memory}, out.wf →
    (squeezeFrom P rate q blocks o A out).2.wf
  | 0, _, _, _, h => h
  | blocks + 1, o, A, out, h => by
    rw [squeezeFrom]
    split
    · exact squeezeFrom_wf blocks _ _ (squeezeBlock_wf A o h _)
    · exact squeezeBlock_wf A o h _

theorem squeeze_wf (A : Lanes) {out : Memory} (h : out.wf) : (squeeze P rate q A out).2.wf :=
  squeezeFrom_wf P rate q _ _ A h

theorem chainRounds_wf : ∀ (n : Nat) {st : Lanes × Memory}, st.2.wf → (chainRounds P rate q n st).2.wf
  | 0, _, h => h
  | n + 1, _, h => chainRounds_wf n (squeeze_wf P rate q _ h)

end Sys2Proof.Machine
end

