-- ==== Sys2Proof/Tests/Slice0.lean ====
section
/-! SUPPORT. Small tests. Expected values come from the worked examples and vectors of spec/95_test_vectors.md (named by
their ids: P, K, S, D, E) or are written out by hand from the rules; and for every statement with hypotheses a state
that meets them. -/

namespace Sys2Proof.Tests

open Sys2Proof Sys2Proof.Machine

-- Kernel evaluations one after another: side by side they only cost memory.
set_option Elab.async false

/-! ### Well-formedness: an ill-formed term for each check -/

theorem test_absorb_zero_is_ill_formed :
    (Instr.absorb 0).absorbsSomething = false ∧ (Instr.absorb 0).wf = false := by decide

theorem test_absorb_nine_is_ill_formed :
    (Instr.absorb 9).absorbsAtMostDin = false ∧ (Instr.absorb 9).wf = false := by decide

theorem test_absorb_one_and_eight_are_well_formed :
    (Instr.absorb 1).wf = true ∧ (Instr.absorb 8).wf = true := by decide

/-! ### Decoding: words written out from the spec's encoding (R55, R57, R61) -/

theorem test_decode_nop :
    decode 0b0000000000000000000000000000000000000000000000000000_0000_00000000 = .ok .nop := by decide

theorem test_decode_config :
    decode 0b0000000000000000000000000000000000000000000000000000_0000_00000001 = .ok .config := by decide

theorem test_decode_init :
    decode 0b0000000000000000000000000000000000000000000000000000_0000_00000010 = .ok .init := by decide

/-- Two counts, so that a shifted or truncated `N` is seen. -/
theorem test_decode_absorb :
    decode 0b0000000000000000000000000000000000000000000000000000_0011_00000011 = .ok (.absorb 3) ∧
    decode 0b0000000000000000000000000000000000000000000000000000_1000_00000011 = .ok (.absorb 8) := by decide

theorem test_decode_final :
    decode 0b0000000000000000000000000000000000000000000000000000_0000_00000100 = .ok .final := by decide

theorem test_decode_permute :
    decode 0b0000000000000000000000000000000000000000000000000000_0000_00000101 = .ok .permute := by decide

theorem test_decode_abort :
    decode 0b0000000000000000000000000000000000000000000000000000_0000_00000110 = .ok .abort := by decide

/-- R58: one word of each illegal kind, and the highest of each. -/
theorem test_illegal_words :
    decode 0x07 = .error .unknownOpcode ∧ decode 0xFF = .error .unknownOpcode ∧
    decode 0x1002 = .error .reservedBits ∧ decode 0x8000000000000000 = .error .reservedBits ∧
    decode 0x101 = .error .strayOperand ∧ decode 0xF06 = .error .strayOperand := by decide

/-- `CW(ABSORB n) = 0x03 + (n << 8)` (R61). -/
theorem test_encode_absorb : encode (.absorb 5) = 0x503 := by decide

theorem test_decodeTableWord : decodeTableWord 64 0x303 = some (.absorb 3) ∧ decodeTableWord 64 0x07 = none := by decide

/-! ### States -/

/-- A busy core: reset, in phase `p`, with `i` latched. -/
def busyWith (i : Instr) (p : Phase) : State := latchCommand i { State.reset with phase := p }

/-- A core out of reset with events to come. -/
def resetThen (es : List Event) : State := { State.reset with events := es }

/-- A core that INIT has left in ABSORBING, with events to come. -/
def absorbingThen (es : List Event) : State := { State.reset with phase := .absorbing, events := es }

/-- One fact about the next state of an outcome; false of a fault and of a refusal. -/
def after (o : Host.Outcome State Fault Refusal) (p : State → Bool) : Bool :=
  match o with
  | .next t => p t
  | .fault _ => false
  | .refused _ => false

/-- A word written to a register. -/
def wr (off : Nat) (v : Word) : Event := .hostWrite (Access.at off) v

/-- An error record (as `ERRINFO` and `INT` show it) after one event on a state. -/
def recordIs (s : State) (w : Word) : Bool := after (step s) fun t => t.errInfo == w && t.errPend

/-! ### Each command -/

/-- `withFetchWord` makes the next step take the word: the first command after reset is accepted. -/
theorem test_first_command_is_taken :
    after (step (State.reset.withFetchWord 64 0x02)) (fun t => t.busy && t.latch.op == 0x02) = true := by decide +kernel

/-- K16: NOP changes nothing that can be read. -/
theorem test_nop :
    after (exec .nop (busyWith .nop .done)) (fun t => t == { busyWith .nop .done with busy := false }) = true := by
  decide +kernel

/-- K2: capacity 1600 fails `CGEW`; `STATUS` and `ERRINFO` after. -/
theorem test_config_rejects :
    let s := latchCommand .config { State.reset with staging := { CfgWords.standard with capacity := 1600 } }
    after (exec .config s) (fun t => t.statusWord == 0x10 && t.errInfo == 0x40101 && readReg t .rateBytes == 0) = true := by
  decide +kernel

/-- K11: `(1600, 1536, 8, 1)` gives rate 8 and one output byte. -/
theorem test_config_installs :
    let s := latchCommand .config
      { State.reset with staging := { width := 1600, capacity := 1536, outlen := 8, rounds := 1 } }
    after (exec .config s) (fun t => t.statusWord == 0x8 && readReg t .rateBytes == 8 && readReg t .outBytes == 1 &&
      readReg t .rounds == 1) = true := by
  decide +kernel

/-- K9: `(0, 0, 0, 0)` has cause 0x54; K5: width 1601 has causes `W64` and `W1600`. -/
theorem test_validate :
    validate Params.standard { width := 0, capacity := 0, outlen := 0, rounds := 0 } = 0x54 ∧
    validate Params.standard { CfgWords.standard with width := 1601 } = 0x11 := by decide +kernel

/-- K15: INIT from DONE clears `OUT` and leaves `STATUS = 0xA`. -/
theorem test_init :
    let s := latchCommand .init { State.reset with phase := .done, out := [(0, 0xCC), (7, 0x14)], lanes := .replicate 25 1 }
    after (exec .init s) (fun t => t.statusWord == 0xA && readReg t (.outw 0) == 0 && laneAt t.lanes 24 == 0) = true := by
  decide +kernel

/-- S1: "abc" after INIT. -/
theorem test_absorb_abc :
    let s := latchCommand (.absorb 3) { State.reset with phase := .absorbing, din := 0x636261 }
    after (exec (.absorb 3) s) (fun t => laneAt t.lanes 0 == 0x636261 && readReg t .spos == 3 &&
      readReg t .msgLen == 3 && t.statusWord == 0xA) = true := by
  decide +kernel

/-- S5: eight bytes at rate 8 leave the chunk deferred, `STATUS = 0x2A`. -/
theorem test_absorb_defers :
    let s := latchCommand (.absorb 8)
      { State.reset with
        phase := .absorbing
        din := 0x0706050403020100
        active := { width := 1600, capacity := 1536, outlen := 128, rounds := 1 } }
    after (exec (.absorb 8) s) (fun t => laneAt t.lanes 0 == 0x0706050403020100 && readReg t .spos == 8 &&
      t.statusWord == 0x2A) = true := by
  decide +kernel

/-- R66's example: ABORT in ABSORBING with `SPOS = 5`. -/
theorem test_abort :
    let s := latchCommand .abort { State.reset with phase := .absorbing, pos := 5, msgLen := 5, lanes := .replicate 25 7 }
    after (exec .abort s) (fun t => t.statusWord == 0x8 && readReg t .spos == 0 && readReg t .msgLen == 0 &&
      laneAt t.lanes 3 == 0) = true := by
  decide +kernel

/-! ### The steps of a round -/

/-- P1. -/
theorem test_theta :
    let A := theta (zeroLanes.set 0 1)
    laneAt A 0 = 1 ∧ laneAt A 21 = 1 ∧ laneAt A 1 = 1 ∧ laneAt A 4 = 2 ∧ laneAt A 24 = 2 ∧ laneAt A 2 = 0 := by
  decide +kernel

/-- P3 and P4. -/
theorem test_rho_pi :
    laneAt (rhoPi Params.standardRho (zeroLanes.set 1 1)) 10 = 2 ∧
    laneAt (rhoPi Params.standardRho (zeroLanes.set 6 1)) 1 = 0x0000100000000000 := by
  decide +kernel

/-- P7. -/
theorem test_chi :
    let A := chi (zeroLanes.set 0 0xFFFFFFFFFFFFFFFF)
    laneAt A 0 = 0xFFFFFFFFFFFFFFFF ∧ laneAt A 3 = 0xFFFFFFFFFFFFFFFF ∧ laneAt A 1 = 0 := by
  decide +kernel

/-- S4: byte 71 of the padded block is 0x86. -/
theorem test_padding_coincides : laneAt (padBlock 72 { lanes := zeroLanes, pos := 71 }) 8 = 0x8600000000000000 := by
  decide +kernel

/-! ### Errors: the rows of 95_test_vectors.md, section 2.5 -/

theorem test_error_E1 : recordIs { busyWith .nop .ready with events := [wr 0x010 0x01] } 0x102 = true := by decide +kernel

theorem test_error_E5 : recordIs (absorbingThen [wr 0x010 0x1002]) 0x203 = true := by decide +kernel

/-- E6, both words. -/
theorem test_error_E6 :
    recordIs (absorbingThen [wr 0x010 0x003]) 0x304 = true ∧ recordIs (absorbingThen [wr 0x010 0x903]) 0x304 = true := by
  decide +kernel

theorem test_error_E8 : recordIs (resetThen [wr 0x010 0x04]) 0x405 = true := by decide +kernel

theorem test_error_E10 : recordIs (absorbingThen [wr 0x010 0x05]) 0x505 = true := by decide +kernel

theorem test_error_E11 : recordIs { resetThen [wr 0x010 0x02] with cfgOk := false } 0x206 = true := by decide +kernel

theorem test_error_E12 : recordIs (absorbingThen [wr 0x080 1]) 0x0000008000000007 = true := by decide +kernel

theorem test_error_E13 : recordIs (resetThen [.hostRead (Access.at 0x004)]) 0x0000000400000008 = true := by decide +kernel

theorem test_error_E14 : recordIs (resetThen [.hostRead (Access.at 0x300)]) 0x0000030000000008 = true := by decide +kernel

theorem test_error_E15 : recordIs { busyWith .nop .ready with events := [wr 0x010 0x07] } 0x702 = true := by decide +kernel

/-- The stickiness example after K2: a second error is not recorded. -/
theorem test_error_record_is_sticky :
    recordIs { resetThen [wr 0x010 0x02] with cfgOk := false, errInfo := 0x40101, errPend := true } 0x40101 = true := by
  decide +kernel

/-- `wr INT, 0x2` clears the record. -/
theorem test_error_record_clears :
    after (step { resetThen [wr 0x070 0x2] with errInfo := 0x40101, errPend := true })
      (fun t => t.errInfo == 0 && t.intWord == 0) = true := by
  decide +kernel

/-- PR3: `wr INT, 0x101` clears `DONE_PEND` and keeps `DONE_EN`. -/
theorem test_int_write :
    after (step { resetThen [wr 0x070 0x101] with donePend := true, doneEn := true })
      (fun t => t.intWord == 0x100 && !t.irq) = true := by
  decide +kernel

/-- The reset row of R104 for `STATUS`, and R21's `ID`. -/
theorem test_reset_registers : readReg State.reset .status = 0x8 ∧ readReg State.reset .id = 0x464C585900200007 := by
  decide +kernel

/-! ### Witnesses: a state and operands that meet every hypothesis of a statement, each clause at a boundary -/

/-- The invariant as a check that can be evaluated. -/
def invCheck (s : State) : Bool :=
  s.params.valid && validate s.params s.active == 0 && decide (s.pos ≤ s.rateBytes) &&
    (s.phase == .absorbing || s.pos == 0) && (s.phase != .absorbing || s.cfgOk) &&
    (!s.busy || match decode s.latch.word with
      | .ok i => i.wf && legalIn i s.phase && (!needsCfg i || s.cfgOk)
      | .error _ => false) &&
    decide s.out.wf && s.out.all (fun c => c.1 < s.params.maxOutBytes) && (s.phase != .absorbing || s.out == []) &&
    (s.phase != .done || s.out.all fun c => c.1 < s.outBytes) && s.errPend == s.err &&
    s.errInfo &&& 0xFFFF0000FF000000 == 0

theorem inv_of_check {s : State} (h : invCheck s = true) : s.Inv := by
  simp only [invCheck, Bool.and_eq_true, Bool.or_eq_true, beq_iff_eq, bne_iff_ne, decide_eq_true_eq,
    List.all_eq_true] at h
  obtain ⟨⟨⟨⟨⟨⟨⟨⟨⟨⟨⟨h1, h2⟩, h3⟩, h4⟩, h5⟩, h6⟩, h7⟩, h8⟩, h9⟩, h10⟩, h11⟩, h12⟩ := h
  refine ⟨h1, h2, h3, fun hp => h4.resolve_left hp, fun hp => h5.resolve_left (not_not.2 hp), fun hb => ?_, h7, h8,
    fun hp => h9.resolve_left (not_not.2 hp), fun hp => h10.resolve_left (not_not.2 hp), h11, h12⟩
  rw [hb] at h6
  revert h6
  cases decode s.latch.word with
  | error e => simp
  | ok i =>
    intro h6
    exact ⟨i, rfl, by cases hn : needsCfg i <;> simp_all⟩

theorem next_with {o : Host.Outcome State Fault Refusal} {p : State → Prop} [DecidablePred p]
    (h : after o (fun t => decide (p t)) = true) : ∃ t, o = .next t ∧ p t := by
  cases o with
  | next t => exact ⟨t, rfl, of_decide_eq_true h⟩
  | fault _ => cases h
  | refused _ => cases h

theorem next_of_after {o : Host.Outcome State Fault Refusal} {p : State → Bool} (h : after o p = true) :
    ∃ t, o = .next t := by
  cases o with
  | next t => exact ⟨t, rfl⟩
  | fault _ => cases h
  | refused _ => cases h

theorem exec_next_of_sound {i : Instr} {s : State} (h : s.Sound) : ∃ t, exec i s = .next t := by
  obtain ⟨f, hf⟩ := exec_runs i
  rw [hf, runCommand, guarded_of_sound h]
  split <;> exact ⟨_, rfl⟩

/-- A message in two groups, of one byte and of eight. -/
def twoGroups : List (Word × BitVec 4) := [(0x636261, 1), (0x0706050403020100, 8)]

/-- A configuration at the ends of the legal ranges: rate 8, the whole buffer, one round. -/
def edgeCfg : CfgWords := { width := 1600, capacity := 1536, outlen := 2048, rounds := 1 }

/-- The other ends: rate 200, no output. -/
def otherEdgeCfg : CfgWords := { width := 1600, capacity := 0, outlen := 0, rounds := 0xFFFFFFFF }

/-- An output buffer below R8's range. -/
def badParams : State := { State.reset with params := { Params.standard with maxOutBytes := 248 } }

/-- A position one above the default rate. -/
def badPosition : State := { State.reset with pos := 73 }

/-- A digest in progress without a valid configuration. -/
def badPhase : State := { absorbingThen [] with cfgOk := false }

/-- A configuration marked valid with rate 0. -/
def badRate : State := { State.reset with active := { CfgWords.standard with capacity := 1600 } }

/-- A CONFIG about to install another configuration. -/
def configuring : State := latchCommand .config { State.reset with staging := edgeCfg }

/-- A reset about to replace another configuration. -/
def resetting : State := { resetThen [.reset] with active := edgeCfg }

/-- A digest in progress, with an `E_CFG` from before it still recorded. -/
def digestingAfterError : State := { absorbingThen [wr 0x018 5] with errInfo := 0x40101, errPend := true }

/-- A FINAL in progress when an ABORT is written. -/
def disturbed : State := { busyWith .final .absorbing with events := [wr 0x010 0x06] }

theorem witness_StepRunsTheDecodedCommand_accepts :
    (resetThen [wr 0x010 0x02]).busy = false ∧
    (resetThen [wr 0x010 0x02]).events = .hostWrite (Access.at 0x010) 0x02 :: [] ∧
    (Access.at 0x010).whole (resetThen [wr 0x010 0x02]).params = true ∧ regAt (Access.at 0x010).off = .cmd ∧
    decode 0x02 = .ok .init := by
  decide +kernel

theorem witness_StepRunsTheDecodedCommand_completes :
    let s : State := { busyWith .init .ready with events := [.coreComplete] }
    s.busy = true ∧ s.events = .coreComplete :: [] ∧ decode s.latch.word = .ok .init := by
  decide +kernel

theorem witness_StepRunsTheDecodedCommand_completes_last :
    let s := busyWith (.absorb 8) .absorbing
    s.busy = true ∧ s.events = [] ∧ decode s.latch.word = .ok (.absorb 8) := by
  decide +kernel

theorem witness_StepRunsTheDecodedCommand_fetch : decode 0xF03 = .ok (.absorb 15) := by decide

/-- Each of the three kinds of illegal word, at its first value, written to a free core. -/
theorem witness_IllegalWordsAreRefused :
    ∀ x ∈ [(resetThen [wr 0x010 0x07], (0x07 : Word)), (resetThen [wr 0x010 0x1000], 0x1000),
        (resetThen [wr 0x010 0x100], 0x100)],
      x.1.Sound ∧ x.1.busy = false ∧ x.1.events = .hostWrite (Access.at 0x010) x.2 :: [] ∧
      (7 ≤ opField x.2 ∨ rsvField x.2 ≠ 0 ∨ (nField x.2 ≠ 0 ∧ opField x.2 ≠ 0x03)) := by
  decide +kernel

/-- A state for each of the six branches: busy, illegal, argument, phase, no configuration, accepted. -/
theorem witness_CommandAcceptance :
    ∀ x ∈ [(({ busyWith .nop .ready with events := [wr 0x010 0x00] } : State), (0x00 : Word)),
        (resetThen [wr 0x010 0x07], 0x07), (absorbingThen [wr 0x010 0x903], 0x903), (absorbingThen [wr 0x010 0x05], 0x05),
        ({ resetThen [wr 0x010 0x02] with cfgOk := false }, 0x02), (absorbingThen [wr 0x010 0x803], 0x803)],
      x.1.Sound ∧ x.1.events = .hostWrite (Access.at 0x010) x.2 :: [] := by
  decide +kernel

theorem witness_PresentedCommandChangesRecordOrLatch :
    (absorbingThen []).Sound ∧ (absorbingThen []).busy = false := by decide +kernel

/-- For `NopCompletes`, `AbortCompletes`, `InitCompletes`, `PermuteCompletes`, `AbsorbCompletes` and `FinalCompletes`: a
busy core the guard lets through. -/
theorem witness_completions :
    (busyWith .nop .done).Sound ∧ (busyWith .nop .done).busy = true ∧
    (busyWith .abort .absorbing).Sound ∧ (busyWith .abort .absorbing).busy = true ∧
    (busyWith .init .ready).Sound ∧ (busyWith .init .ready).busy = true ∧
    (busyWith .permute .ready).Sound ∧ (busyWith .permute .ready).busy = true ∧
    (busyWith (.absorb 8) .absorbing).Sound ∧ (busyWith (.absorb 8) .absorbing).busy = true ∧
    (busyWith .final .absorbing).Sound ∧ (busyWith .final .absorbing).busy = true := by
  decide +kernel

/-- Both ends of the legal values. -/
theorem witness_ConfigInstallsLegalValues :
    ∀ c ∈ [edgeCfg, otherEdgeCfg], let s := latchCommand .config { State.reset with staging := c }
      s.Sound ∧ s.busy = true ∧ s.latch.cfg.width = 1600 ∧ s.latch.cfg.capacity.toNat % 64 = 0 ∧
      s.latch.cfg.capacity.toNat < 1600 ∧ s.latch.cfg.outlen.toNat % 8 = 0 ∧
      s.latch.cfg.outlen.toNat ≤ 8 * s.params.maxOutBytes ∧ s.latch.cfg.rounds ≠ 0 := by
  decide +kernel

theorem witness_ConfigRejectsIllegalValues :
    let s := latchCommand .config { State.reset with staging := { CfgWords.standard with capacity := 1600 } }
    s.Sound ∧ s.busy = true ∧ validate s.params s.latch.cfg ≠ 0 := by
  decide +kernel

theorem witness_FinalKeepsBytesAboveTheOutput :
    (busyWith .final .absorbing).Sound ∧ (busyWith .final .absorbing).busy = true ∧ (busyWith .final .absorbing).out.wf ∧
    (∃ t, exec .final (busyWith .final .absorbing) = .next t) ∧ (busyWith .final .absorbing).outBytes ≤ 256 :=
  ⟨by decide +kernel, rfl, by decide +kernel, exec_next_of_sound (by decide +kernel), by decide +kernel⟩

theorem witness_RotateMovesEachBit : 0 < 64 ∧ 63 < 64 := by decide

theorem witness_SxorTouchesOneByte : 199 < 200 ∧ 198 < 200 ∧ 0 < 200 := by decide

theorem witness_RhoPiClosedForm : ((4, 4) : Fin 5 × Fin 5) ≠ (0, 0) ∧ ((1, 0) : Fin 5 × Fin 5) ≠ (0, 0) := by decide

/-- For `AbsorbPositionFormula`, `AbsorptionMatchesTheSource`, `SqueezeWritesTheOutput` and `ChainRoundHashesTheBuffer`,
whose hypotheses are `0 < rate` and a canonical buffer: a rate, an empty buffer and one with entries at both ends, an
output byte written and one kept. -/
theorem witness_rates_and_buffers :
    0 < 8 ∧ Memory.wf [] ∧ Memory.wf [(0, 1), (255, 0x80)] ∧ 0 < 256 ∧ 255 < 256 ∧ 256 ≤ 256 := by
  decide

/-- The two marks on one byte, and at the ends of a block of 200 bytes. -/
theorem witness_PaddingMarksTwoBytes :
    (⟨zeroLanes, 7⟩ : Sponge).pos < 8 ∧ 8 ≤ 200 ∧ 7 < 200 ∧ (⟨zeroLanes, 0⟩ : Sponge).pos < 200 ∧ 200 ≤ 200 ∧
    199 < 200 := by
  decide

/-- A group of one byte and a full one, in front of another event. -/
theorem witness_AbsorbCommandsAbsorbTheirBytes :
    (absorbingThen (absorbEvents twoGroups ++ [.reset])).Inv ∧
    (absorbingThen (absorbEvents twoGroups ++ [.reset])).busy = false ∧
    (absorbingThen (absorbEvents twoGroups ++ [.reset])).phase = .absorbing ∧
    (∀ g ∈ twoGroups, 1 ≤ g.2 ∧ g.2 ≤ 8) ∧
    (absorbingThen (absorbEvents twoGroups ++ [.reset])).events = absorbEvents twoGroups ++ [.reset] :=
  ⟨inv_of_check (by decide +kernel), by decide, by decide, by simp [twoGroups], by simp [absorbingThen]⟩

/-- A message of two groups. -/
theorem witness_DigestOfTheMessage :
    (resetThen (digestEvents twoGroups ++ [])).Inv ∧ (resetThen (digestEvents twoGroups ++ [])).busy = false ∧
    (resetThen (digestEvents twoGroups ++ [])).cfgOk = true ∧ (∀ g ∈ twoGroups, 1 ≤ g.2 ∧ g.2 ≤ 8) ∧
    (resetThen (digestEvents twoGroups ++ [])).events = digestEvents twoGroups ++ [] :=
  ⟨inv_of_check (by decide +kernel), by decide, by decide, by simp [twoGroups], by simp [resetThen]⟩

/-- The empty message. -/
theorem witness_DigestOfTheMessage_empty :
    (resetThen (digestEvents [] ++ [])).Inv ∧ (resetThen (digestEvents [] ++ [])).busy = false ∧
    (resetThen (digestEvents [] ++ [])).cfgOk = true ∧
    (resetThen (digestEvents [] ++ [])).events = digestEvents [] ++ [] :=
  ⟨inv_of_check (by decide +kernel), by decide, by decide, by simp [resetThen]⟩

/-- Each kind of bus error: misaligned, at `WIN`, of another width, partial. -/
theorem witness_BusErrors :
    ∀ a ∈ [Access.at 0x004, Access.at 0x300, ⟨0x008, 4, 0xFF⟩, ⟨0x008, 8, 0x7F⟩],
      (resetThen [.hostRead a]).Sound ∧ (resetThen [.hostRead a]).events = .hostRead a :: [] ∧
      (resetThen [.hostWrite a 1]).Sound ∧ (resetThen [.hostWrite a 1]).events = .hostWrite a 1 :: [] ∧
      (a.off % 8 ≠ 0 ∨ 0x200 + State.reset.params.maxOutBytes ≤ a.off ∨ a.width ≠ 8 ∨ a.enables ≠ 0xFF) := by
  decide +kernel

/-- The first and the last register of the window. -/
theorem witness_ReadsHaveNoSideEffect :
    ∀ off ∈ [0x000, 0x2F8], (resetThen [.hostRead (Access.at off)]).Sound ∧ off % 8 = 0 ∧
      off < 0x200 + (resetThen []).params.maxOutBytes ∧
      (resetThen [.hostRead (Access.at off)]).events = .hostRead (Access.at off) :: [] := by
  decide +kernel

theorem witness_RegisterMap : 24 < 25 ∧ 0x148 ≤ 0x148 ∧ 0x1F8 < 0x200 := by decide

/-- For `IdRegister` and `InvariantHoldsAtReset`: the default parameters, and the largest output buffer. -/
theorem witness_valid_parameters :
    Params.standard.valid = true ∧ ({ Params.standard with maxOutBytes := 524280 } : Params).valid = true := by
  decide +kernel

/-- For `ActiveConfigurationRegisters`, `PlainRegisters`, `InvariantStatesNeverStop` and `AcceptedCommandsComplete`: a
free core with no valid configuration, a busy one, and one with a deferred chunk. -/
theorem witness_invariant_states :
    ({ State.reset with cfgOk := false } : State).Inv ∧ (busyWith .init .ready).Inv ∧
    ({ absorbingThen [] with pos := 72 } : State).Inv :=
  ⟨inv_of_check (by decide +kernel), inv_of_check (by decide +kernel), inv_of_check (by decide +kernel)⟩

/-- Both refusals and the write, at the first and the last lane. -/
theorem witness_LaneWrites :
    ∀ i ∈ [(0 : Fin 25), 24], ∀ s ∈ [resetThen [wr (0x080 + 8 * i.val) 1], absorbingThen [wr (0x080 + 8 * i.val) 1],
        { busyWith .nop .ready with events := [wr (0x080 + 8 * i.val) 1] }],
      s.Sound ∧ s.events = .hostWrite (Access.at (0x080 + 8 * i.val)) 1 :: [] := by
  decide +kernel

theorem witness_OutputWordBytes : 0 < 8 ∧ 7 < 8 := by decide

/-- Each range of ignored writes at its ends. -/
theorem witness_IgnoredWrites :
    ∀ off ∈ [0x000, 0x008, 0x040, 0x068, 0x078, 0x148, 0x1F8, 0x200, 0x2F8], (resetThen [wr off 1]).Sound ∧
      off % 8 = 0 ∧ off < 0x200 + (resetThen [wr off 1]).params.maxOutBytes ∧
      (off = 0x000 ∨ off = 0x008 ∨ (0x040 ≤ off ∧ off ≤ 0x068) ∨ off = 0x078 ∨ 0x148 ≤ off) ∧
      (resetThen [wr off 1]).events = .hostWrite (Access.at off) 1 :: [] := by
  decide +kernel

theorem witness_DinAndStagingWrites :
    ∀ off ∈ [0x018, 0x020, 0x028, 0x030, 0x038], (resetThen [wr off 5]).Sound ∧
      (resetThen [wr off 5]).events = .hostWrite (Access.at off) 5 :: [] := by
  decide +kernel

theorem witness_IntWrites :
    (resetThen [wr 0x070 0x303]).Sound ∧
    (resetThen [wr 0x070 0x303]).events = .hostWrite (Access.at 0x070) 0x303 :: [] := by
  decide +kernel

theorem witness_FirstErrorIsRecorded :
    State.reset.errInfo.extractLsb' 0 8 = 0 ∧
    ({ State.reset with errInfo := 0x40101 } : State).errInfo.extractLsb' 0 8 ≠ 0 := by
  decide +kernel

/-- Also while a command is accepted. -/
theorem witness_ResetEvent :
    let s : State := { busyWith .final .absorbing with events := [.reset] }
    s.Sound ∧ s.busy = true ∧ s.events = .reset :: [] := by
  decide +kernel

theorem witness_FreeCoreWaits : (resetThen []).Sound ∧ (resetThen []).busy = false ∧ (resetThen []).events = [] := by
  decide +kernel

/-- One state for each broken invariant, with the ones before it kept. -/
theorem witness_BrokenInvariantsStop :
    badParams.params.valid = false ∧
    badPosition.params.valid = true ∧ badPosition.rateBytes < badPosition.pos ∧
    badPhase.params.valid = true ∧ badPhase.pos ≤ badPhase.rateBytes ∧ badPhase.phase = .absorbing ∧
      badPhase.cfgOk = false ∧
    badRate.params.valid = true ∧ badRate.pos ≤ badRate.rateBytes ∧ badRate.cfgOk = true ∧
      (badRate.rateBytes < 8 ∨ 200 < badRate.rateBytes) := by
  decide +kernel

theorem witness_UndecodableLatchStops :
    let s : State := { State.reset with busy := true, latch := { Latch.empty with op := 0x07 } }
    s.Sound ∧ s.busy = true ∧ decode s.latch.word = .error .unknownOpcode ∧ s.events = [] := by
  decide +kernel

/-- For `StepKeepsTheInvariant` and `NoStepWritesTheParameters`: a host write, and a completion. -/
theorem witness_StepKeepsTheInvariant :
    (resetThen [wr 0x018 5]).Inv ∧ (∃ t, step (resetThen [wr 0x018 5]) = .next t) ∧
    (busyWith .init .ready).Inv ∧ (∃ t, step (busyWith .init .ready) = .next t) :=
  ⟨inv_of_check (by decide +kernel), next_of_after (p := fun _ => true) (by decide +kernel),
    inv_of_check (by decide +kernel), next_of_after (p := fun _ => true) (by decide +kernel)⟩

theorem witness_CompletionIgnoresLiveOperands :
    (busyWith (.absorb 1) .absorbing).busy = true ∧
    ∃ t, exec (.absorb 1) (busyWith (.absorb 1) .absorbing) = .next t :=
  ⟨rfl, exec_next_of_sound (by decide +kernel)⟩

/-- A completed CONFIG that changes the active configuration, and a reset that does. -/
theorem witness_ActiveConfigurationChangesOnlyByConfig :
    configuring.Inv ∧ (∃ t, step configuring = .next t ∧ t.active ≠ configuring.active) ∧
    resetting.Inv ∧ (∃ t, step resetting = .next t ∧ t.active ≠ resetting.active) :=
  ⟨inv_of_check (by decide +kernel), next_with (by decide +kernel),
    inv_of_check (by decide +kernel), next_with (by decide +kernel)⟩

/-- An `E_CFG` recorded before the digest is still recorded after a host write during it. -/
theorem witness_NoConfigurationErrorMidDigest :
    digestingAfterError.Inv ∧ digestingAfterError.phase = .absorbing ∧
    ∃ t, step digestingAfterError = .next t ∧ errCodeField t.errInfo = 0x01 :=
  ⟨inv_of_check (by decide +kernel), rfl, next_with (by decide +kernel)⟩

theorem witness_HostCannotDisturbABusyCore :
    disturbed.busy = true ∧ disturbed.events = wr 0x010 0x06 :: [] ∧ wr 0x010 0x06 ≠ .coreComplete ∧
    wr 0x010 0x06 ≠ .reset ∧ ∃ t, step disturbed = .next t :=
  ⟨rfl, rfl, by decide, by decide, next_of_after (p := fun _ => true) (by decide +kernel)⟩

/-! ### The tests that need a whole permutation, evaluated once -/

/-- P13's table: the image of the zero state. -/
def zeroImage : Lanes :=
  #v[0xF1258F7940E1DDE7, 0x84D5CCF933C0478A, 0xD598261EA65AA9EE, 0xBD1547306F80494D, 0x8B284E056253D057,
     0xFF97A42D7F8E6FD4, 0x90FEE5A0A44647C4, 0x8C5BDA0CD6192E76, 0xAD30A6F71B19059C, 0x30935AB7D08FFC64,
     0xEB5AA93F2317D635, 0xA9A6E6260D712103, 0x81A57C16DBCF555F, 0x43B831CD0347C826, 0x01F22F1A11A5569F,
     0x05E5635A21D9AE61, 0x64BEFEF28CC970F2, 0x613670957BC46611, 0xB87C5A554FD00ECB, 0x8C3EE88A1CCF32C8,
     0x940C7922AE3A2614, 0x1841F924A2C509E4, 0x16F53526E70465C2, 0x75F644E97F30A13B, 0xEAF1FF7B5CECA249]

/-- P13. -/
theorem test_permutation_of_zero : permute Params.standard zeroLanes = zeroImage := by decide +kernel

/-- P13 through the command: PERMUTE on a core out of reset. -/
theorem test_permute :
    exec .permute (busyWith .permute .ready) =
      .next { busyWith .permute .ready with lanes := zeroImage, busy := false } := by
  have hs : (busyWith .permute .ready).Sound := by decide +kernel
  rw [← test_permutation_of_zero]
  exact runCommand_completes (i := .permute) (f := permuteEffect) hs rfl

/-- A digest whose lanes the padding turns into the zero state (S3's marks), with 64 bytes of output. -/
def finishing : State :=
  latchCommand .final
    { State.reset with
      phase := .absorbing
      lanes := (zeroLanes.set 0 0x06).set 8 0x8000000000000000
      active := { width := 1600, capacity := 1024, outlen := 512, rounds := 1 } }

/-- FINAL on it squeezes P13's first eight lanes; `STATUS = 0xC` and `INT = 1` as after every digest of section 2.4. -/
theorem test_final :
    after (exec .final finishing) (fun t => readReg t (.outw 0) == 0xF1258F7940E1DDE7 &&
      readReg t (.outw 7) == 0x8C5BDA0CD6192E76 && readReg t (.outw 8) == 0 && t.statusWord == 0xC &&
      t.intWord == 1) = true := by
  have hp : padBlock 72 (settleChunk Params.standard 72 { lanes := finishing.lanes, pos := 0 }) = zeroLanes := by
    decide +kernel
  have hf : finalRounds Params.standard 72 64 1 { lanes := finishing.lanes, pos := 0 } [] =
      squeeze Params.standard 72 64 zeroImage [] := by
    rw [← test_permutation_of_zero, ← hp]
    rfl
  have hs : finishing.Sound := by decide +kernel
  have he : exec .final finishing = .next { finalEffect finishing with busy := false } :=
    runCommand_completes (i := .final) (f := finalEffect) hs rfl
  have hr : finalRounds finishing.params finishing.rateBytes finishing.outBytes finishing.active.rounds.toNat
      { lanes := finishing.lanes, pos := finishing.pos } finishing.out = squeeze Params.standard 72 64 zeroImage [] := hf
  rw [he, finalEffect, hr]
  decide +kernel

end Sys2Proof.Tests
end

section
/-! SUPPORT. The configuration checks (R62): what each bit of the cause set says, which configurations are legal, and
the rates these have. -/

namespace Sys2Proof.Machine

/-- R62's table: which checks fail, in the order of their cause bits from 0 (`W64`) to 6 (`R0`). -/
def failedChecks (P : Params) (c : CfgWords) : List Bool :=
  [c.width.toNat % 64 != 0, c.capacity.toNat % 64 != 0, c.width.toNat ≤ c.capacity.toNat, c.outlen.toNat % 8 != 0,
    c.width.toNat != 1600, 8 * P.maxOutBytes < c.outlen.toNat, c.rounds.toNat == 0]

/-- A bit appended at the low end is the new head of the bits listed from bit 0. -/
theorem getLsbD_append_ofBool {n : Nat} {x : BitVec n} {bits : List Bool}
    (hx : ∀ i, x.getLsbD i = bits.getD i false) (b : Bool) :
    ∀ i, (x ++ BitVec.ofBool b).getLsbD i = (b :: bits).getD i false
  | 0 => by rw [BitVec.getLsbD_append]; simp
  | i + 1 => by rw [BitVec.getLsbD_append]; simpa using hx i

/-- The cause set is R62's table, bit by bit; bit 7 and all above are never set. -/
theorem validate_getLsbD (P : Params) (c : CfgWords) (i : Nat) :
    (validate P c).getLsbD i = (failedChecks P c).getD i false := by
  have hbit7 (i : Nat) : (0#1).getLsbD i = [].getD i false := by simp
  have hr0 := getLsbD_append_ofBool hbit7 (c.rounds.toNat == 0)
  have homax := getLsbD_append_ofBool hr0 (8 * P.maxOutBytes < c.outlen.toNat)
  have hw1600 := getLsbD_append_ofBool homax (c.width.toNat != 1600)
  have ho8 := getLsbD_append_ofBool hw1600 (c.outlen.toNat % 8 != 0)
  have hcgew := getLsbD_append_ofBool ho8 (c.width.toNat ≤ c.capacity.toNat)
  have hc64 := getLsbD_append_ofBool hcgew (c.capacity.toNat % 64 != 0)
  exact getLsbD_append_ofBool hc64 (c.width.toNat % 64 != 0) i

/-- There is no cause exactly when no check fails: every check has its own bit. -/
theorem validate_eq_zero_iff_no_failedCheck (P : Params) (c : CfgWords) :
    validate P c = 0 ↔ ∀ b ∈ failedChecks P c, b = false := by
  constructor
  · intro h b hb
    obtain ⟨i, hi, rfl⟩ := List.getElem_of_mem hb
    have hbit := validate_getLsbD P c i
    simpa [h, hi] using hbit.symm
  · intro h
    refine BitVec.eq_of_getLsbD_eq fun i _ => ?_
    rw [validate_getLsbD, List.getD_eq_getElem?_getD]
    cases hi : (failedChecks P c)[i]? with
    | none => simp
    | some b => simp [h b (List.mem_of_getElem? hi)]

/-- The legal configurations (R62). -/
theorem validate_eq_zero_iff (P : Params) (c : CfgWords) :
    validate P c = 0 ↔ c.width.toNat = 1600 ∧ c.capacity.toNat % 64 = 0 ∧ c.capacity.toNat ≤ 1536 ∧
      c.outlen.toNat % 8 = 0 ∧ c.outlen.toNat ≤ 8 * P.maxOutBytes ∧ 1 ≤ c.rounds.toNat := by
  rw [validate_eq_zero_iff_no_failedCheck]
  simp only [failedChecks, List.forall_mem_cons, List.not_mem_nil, false_imp_iff, implies_true, and_true,
    bne_eq_false_iff_eq, beq_eq_false_iff_ne, decide_eq_false_iff_not]
  omega

/-- The rates of the legal configurations (R62): `c` is a multiple of 64, so the rate is one of 8. -/
theorem rateBytes_of_validate_eq_zero {P : Params} {c : CfgWords} (h : validate P c = 0) :
    c.rateBytes % 8 = 0 ∧ 8 ≤ c.rateBytes ∧ c.rateBytes ≤ 200 := by
  obtain ⟨hw, hc64, hc, -⟩ := (validate_eq_zero_iff P c).1 h
  unfold CfgWords.rateBytes
  omega

/-- Settles O11: each bit and the legal set are read off R62's table. -/
theorem validateCauseBits : Obligations.ValidateCauseBits := by
  intro P w c o r
  have hw : w = 1600 ↔ w.toNat = 1600 := BitVec.toNat_inj.symm
  have hr : r = 0 ↔ r.toNat = 0 := BitVec.toNat_inj.symm
  simp only [validate_getLsbD, hw, hr, ne_eq, BitVec.le_def]
  refine ⟨?w64, ?c64, ?cgew, ?o8, ?w1600, ?omax, ?r0, rfl, ?legal, rateBytes_of_validate_eq_zero⟩
  case legal => exact validate_eq_zero_iff P _
  all_goals simp [failedChecks]

end Sys2Proof.Machine
end

section
/-! SUPPORT. Rho+pi as a permutation (R71): the positions the walk visits, each once, what one step writes and carries,
and what holds after every number of steps. -/

namespace Sys2Proof.Machine

/-- Pi's move of a lane (R71): where the lane at `p` goes. -/
def piMove (p : Fin 5 × Fin 5) : Fin 5 × Fin 5 := (p.2, 2 * p.1 + 3 * p.2)

/-- The walk's position after `t` steps. -/
def walkPosition (t : Nat) : Fin 5 × Fin 5 := piMove^[t] (1, 0)

theorem walkPosition_succ (t : Nat) : walkPosition (t + 1) = piMove (walkPosition t) :=
  Function.iterate_succ_apply' piMove t (1, 0)

/-- The lane at `p`, rotated by its own offset: what rho+pi puts at `piMove p` (R71). -/
def rotatedLane (rho : Vector (Vector Nat 5) 5) (A : Lanes) (p : Fin 5 × Fin 5) : Word :=
  rotl64 (lane A p.1 p.2) rho[p.1][p.2]

/-- No destination is written twice in the 24 steps. -/
theorem walkPosition_fresh : ∀ t < 24, ∀ s < t, walkPosition (s + 1) ≠ walkPosition (t + 1) := by decide

/-- The walk carries every lane but (0, 0). -/
theorem exists_walkPosition_eq : ∀ p : Fin 5 × Fin 5, p ≠ (0, 0) → ∃ s < 24, walkPosition s = p := by decide

/-- No step writes lane (0, 0). -/
theorem walkPosition_succ_ne_origin : ∀ s < 24, walkPosition (s + 1) ≠ (0, 0) := by decide

/-- One step writes the rotated carried lane at pi's destination and no other lane. -/
theorem lane_walkStep (rho : Vector (Vector Nat 5) 5) (w : Walk) (p : Fin 5 × Fin 5) :
    lane (walkStep rho w).lanes p.1 p.2 =
      if p = piMove (w.x, w.y) then rotl64 w.current rho[w.x][w.y] else lane w.lanes p.1 p.2 := by
  simp only [walkStep, lane_set, piMove, Prod.ext_iff]

/-- The walk `w` has done `t` steps on `A`: it carries the old lane of its position, every destination so far holds the
old lane of the position before it, rotated by that position's offset, and every other lane is as it was. -/
structure WalkDone (rho : Vector (Vector Nat 5) 5) (A : Lanes) (t : Nat) (w : Walk) : Prop where
  position : (w.x, w.y) = walkPosition t
  carried : w.current = lane A w.x w.y
  moved : ∀ s < t, lane w.lanes (walkPosition (s + 1)).1 (walkPosition (s + 1)).2 =
    rotatedLane rho A (walkPosition s)
  kept : ∀ p, (∀ s < t, walkPosition (s + 1) ≠ p) → lane w.lanes p.1 p.2 = lane A p.1 p.2

theorem walkDone_walkStep {rho : Vector (Vector Nat 5) 5} {A : Lanes} {t : Nat} {w : Walk} (ht : t < 24)
    (h : WalkDone rho A t w) : WalkDone rho A (t + 1) (walkStep rho w) := by
  have hdest : piMove (w.x, w.y) = walkPosition (t + 1) := by rw [h.position, walkPosition_succ]
  constructor
  case position => exact hdest
  case carried =>
    -- the destination was not written before, so the lane taken from it is the old one
    refine h.kept (piMove (w.x, w.y)) fun s hs => ?_
    rw [hdest]
    exact walkPosition_fresh t ht s hs
  case moved =>
    intro s hs
    rw [lane_walkStep, hdest]
    obtain hlt | rfl := Nat.lt_succ_iff_lt_or_eq.1 hs
    · rw [if_neg (walkPosition_fresh t ht s hlt), h.moved s hlt]
    · rw [if_pos rfl, h.carried, ← h.position, rotatedLane]
  case kept =>
    intro p hp
    rw [lane_walkStep, hdest, if_neg (hp t t.lt_succ_self).symm]
    exact h.kept p fun s hs => hp s (Nat.lt_succ_of_lt hs)

theorem walkDone_walkAfter (rho : Vector (Vector Nat 5) 5) (A : Lanes) :
    ∀ t ≤ 24, WalkDone rho A t (walkAfter rho A t)
  | 0, _ =>
    { position := rfl
      carried := rfl
      moved := fun _ hs => absurd hs (Nat.not_lt_zero _)
      kept := fun _ _ => rfl }
  | t + 1, ht => walkDone_walkStep ht (walkDone_walkAfter rho A t (Nat.le_of_succ_le ht))

/-- Settles O21: after the 24 steps every lane but (0, 0) has been carried, and (0, 0) has not been written. -/
theorem rhoPiClosedForm : Obligations.RhoPiClosedForm := by
  intro rho A
  have hdone := walkDone_walkAfter rho A 24 le_rfl
  constructor
  · exact hdone.kept (0, 0) walkPosition_succ_ne_origin
  · intro x y hxy
    obtain ⟨s, hs, hpos⟩ := exists_walkPosition_eq (x, y) hxy
    have hmoved := hdone.moved s hs
    rwa [walkPosition_succ, hpos] at hmoved

end Sys2Proof.Machine
end

section
/-! SUPPORT. The other step mappings, lane by lane (R69, R72, R73), and the order of the rounds (R74, R75). -/

namespace Sys2Proof.Machine

theorem columnParity_getElem (A : Lanes) (x : Fin 5) :
    (columnParity A)[x] = lane A x 0 ^^^ lane A x 1 ^^^ lane A x 2 ^^^ lane A x 3 ^^^ lane A x 4 :=
  Vector.getElem_ofFn x.isLt

theorem thetaMask_getElem (C : Vector Word 5) (x : Fin 5) :
    (thetaMask C)[x] = C[x + 4] ^^^ rotl64 C[x + 1] 1 :=
  Vector.getElem_ofFn x.isLt

/-- The round constants in the order of their index. -/
theorem rc_toList_eq_map (rc : Vector Word 24) : rc.toList = (List.finRange 24).map fun ir => rc[ir] :=
  List.ext_getElem (by simp) fun i _ _ => by simp

/-- Settles O24: folding over the table of constants is folding over its indices. -/
theorem permuteIsTwentyFourRounds : Obligations.PermuteIsTwentyFourRounds := by
  intro P A
  calc permute P A
      = ((List.finRange 24).map fun ir => P.rc[ir]).foldl (permRound P.rho) A := by
        rw [permute, rc_toList_eq_map]
    _ = (List.finRange 24).foldl (fun A ir => permRound P.rho A P.rc[ir]) A := List.foldl_map

/-- Settles O20: theta's mask is made of the parities of `A` itself. -/
theorem thetaOfEachLane : Obligations.ThetaOfEachLane := by
  intro A x y C
  calc lane (theta A) x y
      = lane A x y ^^^ (thetaMask (columnParity A))[x] := by rw [theta, lane_lanesOf]
    _ = lane A x y ^^^ (C (x + 4) ^^^ rotl64 (C (x + 1)) 1) := by
        rw [thetaMask_getElem, columnParity_getElem, columnParity_getElem]

/-- Settles O22: every lane of chi is computed from `A` itself. -/
theorem chiOfEachLane : Obligations.ChiOfEachLane := by
  intro A x y
  rw [chi, lane_lanesOf]

/-- Settles O23: iota is the write of lane (0, 0). -/
theorem iotaChangesLaneZeroOnly : Obligations.IotaChangesLaneZeroOnly := by
  intro rc A x y
  exact lane_set A (lane A 0 0 ^^^ rc) 0 0 x y

end Sys2Proof.Machine
end

section
/-! SUPPORT. The trap (R91): the fields of a packed error, what recording keeps or writes, and that an error is shown
after it. -/

namespace Sys2Proof.Machine

/-- R89 gives no error the number 0, which means "no error". -/
theorem ErrorCode.code_ne_zero (e : ErrorCode) : e.code ≠ 0 := by
  cases e <;> decide

section
/-! ### The fields of a packed error (R31)

A field is read by passing the fields below it, lowest first. -/

variable (e : ErrorCode) (op cause : Byte) (off : Nat)

@[simp] theorem errCodeField_packError : errCodeField (packError e op cause off) = e.code :=
  BitVec.extractLsb'_append_eq_right

/-- Above the code stand the other fields. -/
theorem packError_extractLsb'_above_code {start len : Nat} (h : 8 ≤ start) :
    (packError e op cause off).extractLsb' start len =
      (0#16 ++ BitVec.ofNat 16 off ++ 0#8 ++ cause ++ op).extractLsb' (start - 8) len :=
  BitVec.extractLsb'_append_eq_of_le h

/-- Above the code, `OP` and `CAUSE` stand the offset and the reserved bits on both sides of it. -/
theorem packError_extractLsb'_above_cause {start len : Nat} (h : 24 ≤ start) :
    (packError e op cause off).extractLsb' start len =
      (0#16 ++ BitVec.ofNat 16 off ++ 0#8).extractLsb' (start - 24) len := by
  rw [packError_extractLsb'_above_code e op cause off (by omega), BitVec.extractLsb'_append_eq_of_le (by omega),
    BitVec.extractLsb'_append_eq_of_le (by omega)]
  congr 1

theorem packError_op : (packError e op cause off).extractLsb' 8 8 = op := by
  rw [packError_extractLsb'_above_code e op cause off le_rfl]
  exact BitVec.extractLsb'_append_eq_right

theorem packError_cause : (packError e op cause off).extractLsb' 16 8 = cause := by
  rw [packError_extractLsb'_above_code e op cause off (by decide), BitVec.extractLsb'_append_eq_of_le le_rfl]
  exact BitVec.extractLsb'_append_eq_right

theorem packError_reserved_low : (packError e op cause off).extractLsb' 24 8 = 0 := by
  rw [packError_extractLsb'_above_cause e op cause off le_rfl]
  exact BitVec.extractLsb'_append_eq_right

theorem packError_offset : (packError e op cause off).extractLsb' 32 16 = BitVec.ofNat 16 off := by
  rw [packError_extractLsb'_above_cause e op cause off (by decide), BitVec.extractLsb'_append_eq_of_le le_rfl]
  exact BitVec.extractLsb'_append_eq_right

theorem packError_reserved_high : (packError e op cause off).extractLsb' 48 16 = 0 := by
  rw [packError_extractLsb'_above_cause e op cause off (by decide), BitVec.extractLsb'_append_eq_of_le (by decide)]
  exact BitVec.extractLsb'_append_eq_left

end

section
/-! ### The record after an error -/

variable {s : State} (e : ErrorCode) (op cause : Byte) (off : Nat)

theorem recordError_errInfo_first (h : errCodeField s.errInfo = 0) :
    (recordError e op cause off s).errInfo = packError e op cause off := by
  rw [recordError_errInfo, if_pos h]

theorem recordError_errInfo_later (h : errCodeField s.errInfo ≠ 0) :
    (recordError e op cause off s).errInfo = s.errInfo := by
  rw [recordError_errInfo, if_neg h]

/-- The frame of the trap. -/
theorem recordError_eq_with : recordError e op cause off s =
    { s with errInfo := (recordError e op cause off s).errInfo, errPend := true } := rfl

/-- A later error is counted nowhere. -/
theorem recordError_eq_self (h : errCodeField s.errInfo ≠ 0) (hpend : s.errPend = true) :
    recordError e op cause off s = s := by
  rw [recordError_eq_with, recordError_errInfo_later e op cause off h, ← hpend]

/-- Whether it is the first or a later one, an error stands after the trap. -/
theorem errCodeField_recordError_ne_zero : errCodeField (recordError e op cause off s).errInfo ≠ 0 := by
  by_cases h : errCodeField s.errInfo = 0
  · rw [recordError_errInfo_first e op cause off h, errCodeField_packError]
    exact e.code_ne_zero
  · rwa [recordError_errInfo_later e op cause off h]

theorem recordError_err : (recordError e op cause off s).err = true :=
  bne_iff_ne.2 (errCodeField_recordError_ne_zero e op cause off)

end

/-- Settles O46: the trap writes the packed error over no error and keeps the record of any other. -/
theorem firstErrorIsRecorded : Obligations.FirstErrorIsRecorded := by
  intro e op cause off s t
  refine ⟨recordError_eq_with e op cause off, recordError_err e op cause off,
    errCodeField_recordError_ne_zero e op cause off, recordError_errInfo_later e op cause off,
    recordError_eq_self e op cause off, fun hfirst => ?fields⟩
  have hword : t.errInfo = packError e op cause off := recordError_errInfo_first e op cause off hfirst
  rw [hword]
  exact ⟨errCodeField_packError e op cause off, packError_op e op cause off, packError_cause e op cause off,
    packError_reserved_low e op cause off, packError_offset e op cause off, packError_reserved_high e op cause off⟩

end Sys2Proof.Machine
end

section
/-! SUPPORT. The command word (R55 to R58): a word is its three fields, and which fields each outcome of the decoder
and each row of the opcode map stands for. -/

namespace Sys2Proof

open Sys2Proof.Laws

/-! ### A word and its fields -/

theorem append_eq_append_iff {m n : Nat} {a c : BitVec m} {b d : BitVec n} : a ++ b = c ++ d ↔ a = c ∧ b = d := by
  constructor
  · intro h
    have hlow : b = d := by
      rw [← BitVec.extractLsb'_append_eq_right (a := a) (b := b), h, BitVec.extractLsb'_append_eq_right]
    subst hlow
    exact ⟨(BitVec.append_left_inj b).1 h, rfl⟩
  · rintro ⟨rfl, rfl⟩
    rfl

theorem word_eq_fields (c : Word) : c = rsvField c ++ nField c ++ opField c := by
  have hhigh : rsvField c ++ nField c = c.extractLsb' 8 56 :=
    BitVec.extractLsb'_append_extractLsb'_eq_extractLsb' (by decide)
  rw [hhigh]
  exact (BitVec.extractLsb'_append_extractLsb' (w := 56) (len := 8)).symm

/-- What the rows of R57's table say of every encoding. -/
theorem encodingFollowsTheTable (i : Instr) : EncodingFollowsTheTable.Statement i := by
  cases i with
  | nop => exact EncodingFollowsTheTable.nop
  | config => exact EncodingFollowsTheTable.config
  | init => exact EncodingFollowsTheTable.init
  | absorb n => exact EncodingFollowsTheTable.absorb n
  | final => exact EncodingFollowsTheTable.final
  | permute => exact EncodingFollowsTheTable.permute
  | abort => exact EncodingFollowsTheTable.abort

@[simp] theorem opField_encode (i : Instr) : opField (encode i) = i.opcode := (encodingFollowsTheTable i).1
@[simp] theorem nField_encode (i : Instr) : nField (encode i) = i.operandN := (encodingFollowsTheTable i).2.1
@[simp] theorem rsvField_encode (i : Instr) : rsvField (encode i) = 0 := (encodingFollowsTheTable i).2.2.1

theorem eq_encode_iff (c : Word) (i : Instr) :
    c = encode i ↔ rsvField c = 0 ∧ nField c = i.operandN ∧ opField c = i.opcode := by
  constructor
  · rintro rfl
    simp
  · rintro ⟨hrsv, hn, hop⟩
    rw [word_eq_fields c, hrsv, hn, hop]
    rfl

/-! ### The decoder by fields -/

/-- Every `OP` up to 0x06 is a command's (R57). -/
theorem eq_six_of_opcode {op : Byte} (h6 : ¬6 < op) (h0 : op ≠ 0) (h1 : op ≠ 1) (h2 : op ≠ 2) (h3 : op ≠ 3)
    (h4 : op ≠ 4) (h5 : op ≠ 5) : op = 6 := by
  bv_omega

theorem decode_eq_ok_iff (c : Word) (i : Instr) :
    decode c = .ok i ↔ rsvField c = 0 ∧ nField c = i.operandN ∧ opField c = i.opcode := by
  constructor
  · intro h
    unfold decode at h
    split_ifs at h with hrsv hop3 hop6 hn h0 h1 h2 h4 h5 <;> cases h
    case neg => exact ⟨not_not.1 hrsv, not_not.1 hn, eq_six_of_opcode hop6 h0 h1 h2 hop3 h4 h5⟩
    all_goals simp_all [Instr.operandN, Instr.opcode]
  · rintro ⟨hrsv, hn, hop⟩
    unfold decode
    rw [hrsv, hn, hop]
    cases i <;> rfl

/-- The words that are no command (R58): the decoder's checks on the three fields, and no other. -/
theorem decode_eq_error_iff (c : Word) :
    (∃ e, decode c = .error e) ↔ 6 < opField c ∨ rsvField c ≠ 0 ∨ (nField c ≠ 0 ∧ opField c ≠ 0x03) := by
  unfold decode
  split_ifs with hrsv hop3 hop6 hn <;> simp_all

/-! ### The rows of the opcode map (R57) -/

/-- Which bits of `N` the mask of an opcode's row keeps: none in ABSORB's. -/
def countMask (op : Byte) : BitVec 4 := if op = 0x03 then 0 else 0xF

theorem rowMask_eq_fields (i : Instr) :
    i.rowMask = BitVec.allOnes 52 ++ countMask i.opcode ++ BitVec.allOnes 8 := by
  cases i <;> simp only [Instr.rowMask, Instr.opcode] <;> decide

theorem rowMatch_eq_fields (i : Instr) : i.rowMatch = 0#52 ++ 0#4 ++ i.opcode := by
  cases i <;> simp only [Instr.rowMatch, Instr.opcode] <;> decide

theorem masked_eq_rowMatch_iff (c : Word) (i : Instr) :
    c &&& i.rowMask = i.rowMatch ↔
      rsvField c = 0 ∧ nField c &&& countMask i.opcode = 0 ∧ opField c = i.opcode := by
  conv_lhs => rw [word_eq_fields c, rowMask_eq_fields, rowMatch_eq_fields, BitVec.and_append, BitVec.and_append]
  rw [append_eq_append_iff, append_eq_append_iff, BitVec.and_allOnes, BitVec.and_allOnes, and_assoc]
  rfl

theorem operandN_and_countMask (i : Instr) : i.operandN &&& countMask i.opcode = 0 := by
  cases i with
  | absorb n => exact BitVec.and_zero
  | nop | config | init | final | permute | abort => rfl

/-- The counts a row's mask lets through are those of the row's commands. -/
theorem exists_command_of_row (i : Instr) (n : BitVec 4) :
    (∃ j : Instr, j.operandN = n ∧ j.opcode = i.opcode) ↔ n &&& countMask i.opcode = 0 := by
  constructor
  · rintro ⟨j, rfl, hop⟩
    rw [← hop, operandN_and_countMask]
  · intro hn
    cases i with
    | absorb m => exact ⟨.absorb n, rfl, rfl⟩
    | nop | config | init | final | permute | abort =>
      obtain rfl : n = 0 := (BitVec.and_allOnes (x := n)).symm.trans hn
      exact ⟨_, rfl, rfl⟩

/-- Settles O3: both sides say the same of the word's three fields. -/
theorem decodeEncodeAgree : Obligations.DecodeEncodeAgree := by
  intro i c
  rw [decode_eq_ok_iff, eq_encode_iff]

/-- Settles O4: the mask keeps `OP`, `RSV` and, in every row but ABSORB's, `N`. -/
theorem rowsMatchByMask : Obligations.RowsMatchByMask := by
  intro i c
  rw [masked_eq_rowMatch_iff, ← exists_command_of_row]
  simp only [decode_eq_ok_iff]
  constructor
  · rintro ⟨j, ⟨hrsv, hn, hop⟩, hrow⟩
    exact ⟨hrsv, ⟨j, hn.symm, hrow⟩, hop.trans hrow⟩
  · rintro ⟨hrsv, ⟨j, hn, hrow⟩, hop⟩
    exact ⟨j, ⟨hrsv, hn.symm, hop.trans hrow.symm⟩, hrow⟩

/-- Settles O2: each word is the encoding of its command. -/
theorem writtenWordsDecode : Obligations.WrittenWordsDecode := by
  simp only [Obligations.WrittenWordsDecode, decodeEncodeAgree _ _]
  decide

end Sys2Proof
end

section
/-! SUPPORT. The two events of a command, for all commands at once: presented to a free core it meets acceptance (R47,
R90); latched in a busy one it has its effect (R48). Then each command's whole next state at its completion. -/

namespace Sys2Proof.Machine

/-- What a command does at completion, besides freeing the core. -/
def commandEffect : Instr → State → State
  | .nop => fun s => s
  | .config => configEffect
  | .init => initEffect
  | .absorb n => absorbEffect n
  | .final => finalEffect
  | .permute => permuteEffect
  | .abort => abortEffect

theorem exec_eq_runCommand (i : Instr) (s : State) : exec i s = runCommand i (commandEffect i) s := by
  cases i <;> rfl

theorem exec_completes (i : Instr) {s : State} (hs : s.Sound) (hb : s.busy = true) :
    exec i s = .next { commandEffect i s with busy := false } := by
  rw [exec_eq_runCommand, runCommand_completes hs hb]

theorem exec_presents (i : Instr) {s : State} (hs : s.Sound) (hb : s.busy = false) :
    exec i s = .next (accept i s) := by
  rw [exec_eq_runCommand, runCommand_presents hs hb]

theorem exec_next {i : Instr} {s t : State} (h : exec i s = .next t) :
    s.Sound ∧ ((s.busy = true ∧ t = { commandEffect i s with busy := false }) ∨ (s.busy = false ∧ t = accept i s)) := by
  rw [exec_eq_runCommand] at h
  exact runCommand_next h

/-- A refused command changes the error record only; an accepted one the latch and `BUSY` only (R90, R47). -/
theorem accept_records_or_latches (i : Instr) (s : State) :
    (∃ e, e ≠ .cfg ∧ accept i s = recordError e i.opcode 0 0 s) ∨
    (i.wf = true ∧ legalIn i s.phase = true ∧ (needsCfg i = true → s.cfgOk = true) ∧
      accept i s = latchCommand i s) := by
  rcases accept_cases i s with ⟨-, h⟩ | ⟨-, -, h⟩ | ⟨-, -, -, -, h⟩ | h
  · exact .inl ⟨.arg, nofun, h⟩
  · exact .inl ⟨.phase, nofun, h⟩
  · exact .inl ⟨.noCfg, nofun, h⟩
  · exact .inr h

/-- Settles O7: presented to a free core, a command meets acceptance only. -/
theorem presentedCommandChangesRecordOrLatch : Obligations.PresentedCommandChangesRecordOrLatch := by
  intro i s hs hb
  refine ⟨accept i s, exec_presents i hs hb, ?_⟩
  rcases accept_records_or_latches i s with ⟨e, -, h⟩ | ⟨-, -, -, h⟩
  · exact .inl (h ▸ recordError_eq_with e i.opcode 0 0)
  · exact .inr (h.trans rfl)

/-! ### The control commands -/

/-- Settles O8: NOP's effect is none. -/
theorem nopCompletes : Obligations.NopCompletes := fun _ hs hb => exec_completes .nop hs hb

/-- Settles O12: ABORT's effect, with the core freed. -/
theorem abortCompletes : Obligations.AbortCompletes := fun _ hs hb => exec_completes .abort hs hb

theorem configEffect_legal {s : State} (h : validate s.params s.latch.cfg = 0) :
    configEffect s = { s with active := s.latch.cfg, cfgOk := true, phase := .ready } := if_pos h

theorem configEffect_illegal {s : State} (h : validate s.params s.latch.cfg ≠ 0) :
    configEffect s = recordError .cfg Instr.config.opcode (validate s.params s.latch.cfg) 0
      { s with cfgOk := false, phase := .ready } := if_neg h

/-- Settles O9: the values listed are those that pass every check of R62. -/
theorem configInstallsLegalValues : Obligations.ConfigInstallsLegalValues := by
  intro s hs hb hw hc64 hc ho8 homax hr
  have hrounds : s.latch.cfg.rounds.toNat ≠ 0 := fun h => hr (BitVec.toNat_inj.1 h)
  have hlegal : validate s.params s.latch.cfg = 0 :=
    (validate_eq_zero_iff _ _).2 ⟨by rw [hw]; rfl, hc64, by omega, ho8, homax, by omega⟩
  rw [exec_completes .config hs hb, commandEffect, configEffect_legal hlegal]

/-- Settles O10: `E_CFG` is recorded with OP 0x01 and no offset. -/
theorem configRejectsIllegalValues : Obligations.ConfigRejectsIllegalValues := by
  intro s hs hb hcause
  rw [exec_completes .config hs hb, commandEffect, configEffect_illegal hcause]
  rfl

/-! ### The sponge commands -/

/-- Settles O13: INIT's effect, with the core freed, and its buffer lists no byte. -/
theorem initCompletes : Obligations.InitCompletes :=
  fun _ hs hb => ⟨exec_completes .init hs hb, Memory.read_nil⟩

/-- Settles O14: PERMUTE's effect, with the core freed. -/
theorem permuteCompletes : Obligations.PermuteCompletes := fun _ hs hb => exec_completes .permute hs hb

/-- Settles O15: the latched bytes are absorbed one by one. -/
theorem absorbCompletes : Obligations.AbsorbCompletes := by
  intro s n hs hb
  refine ⟨absorbBytes s.params s.rateBytes ⟨s.lanes, s.pos⟩ (dinBytes s.latch.din n), List.foldl_map, ?_⟩
  rw [exec_completes (.absorb n) hs hb, commandEffect, absorbEffect, BitVec.ofNat_toNat]

/-- The further chaining rounds are iterations of one round over the buffer. -/
theorem chainRounds_eq_iterate (P : Params) (rate q : Nat) : ∀ (n : Nat) (st : Lanes × Memory),
    chainRounds P rate q n st = (fun st : Lanes × Memory => chainRound P rate q st.2)^[n] st
  | 0, _ => rfl
  | n + 1, st => chainRounds_eq_iterate P rate q n (chainRound P rate q st.2)

/-- Settles O16: FINAL's effect, its further rounds as iterations of one. -/
theorem finalCompletes : Obligations.FinalCompletes := by
  intro s hs hb first last
  have hlast : finalRounds s.params s.rateBytes s.outBytes s.active.rounds.toNat ⟨s.lanes, s.pos⟩ s.out = last :=
    chainRounds_eq_iterate _ _ _ _ first
  rw [exec_completes .final hs hb, commandEffect, finalEffect, hlast]

/-! ### What a completion reads -/

/-- The effect of a command takes its operands from the latch (R33, R107). -/
theorem commandEffect_with_live_operands (i : Instr) (s : State) (d : Word) (c : CfgWords) :
    commandEffect i { s with din := d, staging := c } = { commandEffect i s with din := d, staging := c } := by
  cases i with
  | config =>
    simp only [commandEffect, configEffect]
    split <;> rfl
  | nop | init | absorb | final | permute | abort => rfl

/-- Settles O56: a busy core's command completes, and its effect reads the latch. -/
theorem completionIgnoresLiveOperands : Obligations.CompletionIgnoresLiveOperands := by
  intro i s t d c hb h
  rcases exec_next h with ⟨hs, ⟨-, rfl⟩ | ⟨hfree, -⟩⟩
  · rw [exec_completes i (s := { s with din := d, staging := c }) hs hb, commandEffect_with_live_operands]
  · simp [hfree] at hb

end Sys2Proof.Machine
end

section
/-! SUPPORT. What a host access can do, said once (R41 to R45): but for an accepted command it leaves the core's working
state alone. -/

namespace Sys2Proof.Machine

/-- What a host access does to the error record: nothing, the clearing of `INT` bit 1 (R93), or the trap (R91), which
no access makes record `E_CFG`. -/
inductive RecordMove (s t : State) : Prop where
  | kept (hinfo : t.errInfo = s.errInfo) (hpend : t.errPend = s.errPend)
  | cleared (hinfo : t.errInfo = 0) (hpend : t.errPend = false)
  | recorded (e : ErrorCode) (op cause : Byte) (off : Nat) (hcfg : e ≠ .cfg)
      (hinfo : t.errInfo = (recordError e op cause off s).errInfo) (hpend : t.errPend = true)

/-- What every host access but an accepted command leaves alone, and what it does to the error record. -/
structure HostFrame (s t : State) : Prop where
  params : t.params = s.params
  out : t.out = s.out
  active : t.active = s.active
  cfgOk : t.cfgOk = s.cfgOk
  busy : t.busy = s.busy
  phase : t.phase = s.phase
  msgLen : t.msgLen = s.msgLen
  pos : t.pos = s.pos
  latch : t.latch = s.latch
  events : t.events = s.events
  /-- A lane write to a busy core is refused (R45). -/
  lanes : s.busy = true → t.lanes = s.lanes
  record : RecordMove s t

theorem hostFrame_recordError (s : State) {e : ErrorCode} (h : e ≠ .cfg) (op cause : Byte) (off : Nat) :
    HostFrame s (recordError e op cause off s) := by
  constructor
  case record => exact .recorded e op cause off h rfl rfl
  all_goals simp

theorem hostFrame_answer (r : BusResponse) (s : State) : HostFrame s (answer r s) := by
  constructor
  case record => exact .kept rfl rfl
  all_goals simp

/-- What the bus has answered before makes no difference. -/
theorem HostFrame.of_answer {r : BusResponse} {s t : State} (h : HostFrame (answer r s) t) : HostFrame s t := by
  obtain ⟨hparams, hout, hactive, hcfgOk, hbusy, hphase, hmsgLen, hpos, hlatch, hevents, hlanes, hrecord⟩ := h
  refine ⟨hparams, hout, hactive, hcfgOk, hbusy, hphase, hmsgLen, hpos, hlatch, hevents, hlanes, ?_⟩
  cases hrecord with
  | kept hinfo hpend => exact .kept hinfo hpend
  | cleared hinfo hpend => exact .cleared hinfo hpend
  | recorded e op cause off hcfg hinfo hpend => exact .recorded e op cause off hcfg hinfo hpend

theorem hostFrame_busError (a : Access) (r : BusResponse) (s : State) : HostFrame s (busError a r s) :=
  HostFrame.of_answer (r := r) (hostFrame_recordError (answer r s) (e := .bus) nofun 0 0 a.off)

theorem hostFrame_memRead (a : Access) (s : State) : HostFrame s (memRead a s) := by
  unfold memRead
  split
  · exact hostFrame_answer _ s
  · exact hostFrame_busError a _ s

/-- Each bit of a write to `INT` in its own field (R44). -/
theorem writeInt_eq_with (v : Word) (s : State) : writeInt v s =
    { s with
      donePend := s.donePend && !v.getLsbD 0
      errPend := s.errPend && !v.getLsbD 1
      errInfo := if v.getLsbD 1 = true then 0 else s.errInfo
      doneEn := v.getLsbD 8
      errEn := v.getLsbD 9 } := by
  unfold writeInt
  cases v.getLsbD 0 <;> cases v.getLsbD 1 <;> simp [clearError]

theorem hostFrame_writeInt (v : Word) (s : State) : HostFrame s (writeInt v s) := by
  rw [writeInt_eq_with]
  constructor
  case record =>
    by_cases hclear : v.getLsbD 1 = true
    · exact .cleared (if_pos hclear) (by simp [hclear])
    · exact .kept (if_neg hclear) (by simp_all)
  all_goals simp

theorem hostFrame_writeLane (off i : Nat) (v : Word) (s : State) : HostFrame s (writeLane off i v s) := by
  unfold writeLane
  split
  · exact hostFrame_recordError s (e := .access) nofun 0 0 off
  · rename_i hfree
    constructor
    case lanes => exact fun hbusy => absurd (.inl hbusy) hfree
    case record => exact .kept rfl rfl
    all_goals rfl

theorem hostFrame_writeReg (off : Nat) (v : Word) (s : State) (r : Reg) : HostFrame s (writeReg off v s r) := by
  cases r with
  | int => exact hostFrame_writeInt v s
  | lane i => exact hostFrame_writeLane off i v s
  | din | cfgWidth | cfgCapacity | cfgOutlen | cfgRounds | id | status | cmd | rateBytes | outBytes | rounds | msgLen
  | spos | errInfo | reserved | outw =>
    constructor
    case record => exact .kept rfl rfl
    all_goals simp [writeReg]

/-- A presented word is refused, or is a command that acceptance latches (R47, R90). -/
theorem presentCommand_cases {c : Word} {s t : State} (h : presentCommand c s = .next t) :
    HostFrame s t ∨ ∃ i, s.busy = false ∧ i.wf = true ∧ legalIn i s.phase = true ∧
      (needsCfg i = true → s.cfgOk = true) ∧ t = latchCommand i s := by
  rcases presentCommand_next h with ⟨-, rfl⟩ | ⟨-, -, rfl⟩ | ⟨hfree, i, -, hexec⟩
  · exact .inl (hostFrame_recordError s (e := .busy) nofun (opField c) 0 0)
  · exact .inl (hostFrame_recordError s (e := .illegal) nofun (opField c) 0 0)
  · obtain ⟨-, ⟨hbusy, -⟩ | ⟨-, rfl⟩⟩ := exec_next hexec
    · simp [hbusy] at hfree
    · rcases accept_records_or_latches i s with ⟨e, hcfg, haccept⟩ | ⟨hwf, hlegal, hneeds, haccept⟩
      · exact .inl (haccept ▸ hostFrame_recordError s hcfg i.opcode 0 0)
      · exact .inr ⟨i, hfree, hwf, hlegal, hneeds, haccept⟩

theorem memWrite_cases {a : Access} {v : Word} {s t : State} (h : memWrite a v s = .next t) :
    HostFrame s t ∨ ∃ i, s.busy = false ∧ i.wf = true ∧ legalIn i s.phase = true ∧
      (needsCfg i = true → s.cfgOk = true) ∧ t = latchCommand i (answer (.write false) s) := by
  rcases memWrite_next h with ⟨-, rfl⟩ | ⟨-, -, hpresent⟩ | ⟨-, -, rfl⟩
  · exact .inl (hostFrame_busError a _ s)
  · exact (presentCommand_cases hpresent).imp_left HostFrame.of_answer
  · exact .inl (HostFrame.of_answer (hostFrame_writeReg a.off v _ _))

end Sys2Proof.Machine
end

section
/-! SUPPORT. All that one step can do, said once (R49), and what follows from it without the invariant. -/

namespace Sys2Proof.Machine

/-- The state with its next event taken. -/
def State.pop (s : State) : State := { s with events := s.events.tail }

/-- The core's own event is next: its completion, or, with no event left to come, what weak fairness owes it (R48). -/
def State.CoreIsNext (s : State) : Prop := s.events = [] ∨ ∃ rest, s.events = .coreComplete :: rest

/-- What a step from `s` to `t` was. -/
inductive StepCase (s t : State) : Prop where
  | hostAccess (e : Event) (rest : List Event) (hevents : s.events = e :: rest) (hcomplete : e ≠ .coreComplete)
      (hreset : e ≠ .reset) (hframe : HostFrame s.pop t)
  | accepted (i : Instr) (hevents : ∃ a c rest, s.events = .hostWrite a c :: rest) (hfree : s.busy = false)
      (hwf : i.wf = true) (hlegal : legalIn i s.phase = true)
      (hcfg : needsCfg i = true → s.cfgOk = true) (ht : t = latchCommand i (answer (.write false) s.pop))
  | completed (i : Instr) (hnext : s.CoreIsNext) (hbusy : s.busy = true) (hdecode : decode s.latch.word = .ok i)
      (ht : t = { commandEffect i s.pop with busy := false })
  | idle (hfree : s.busy = false) (ht : t = s.pop)
  | reset (rest : List Event) (hevents : s.events = .reset :: rest) (ht : t = resetEvent s.pop)

theorem pop_of_nil {s : State} (h : s.events = []) : s.pop = s := by
  rw [State.pop, h, List.tail_nil, ← h]

theorem pop_of_cons {s : State} {e : Event} {rest : List Event} (h : s.events = e :: rest) :
    s.pop = { s with events := rest } := by
  rw [State.pop, h, List.tail_cons]

/-- The core's own event completes the latched command, or finds the core free. -/
theorem complete_stepCase {s t : State} (hnext : s.CoreIsNext) (h : complete s.pop = .next t) : StepCase s t := by
  rcases complete_next h with ⟨hbusy, i, hdecode, hexec⟩ | ⟨hfree, rfl⟩
  · obtain ⟨-, ⟨-, ht⟩ | ⟨hfree, -⟩⟩ := exec_next hexec
    · exact .completed i hnext hbusy hdecode ht
    · exact absurd (hbusy.symm.trans hfree) (by decide)
  · exact .idle hfree rfl

/-- The inversion of a step: later proofs cite it and do not unfold one. -/
theorem step_cases {s t : State} (h : step s = .next t) : StepCase s t := by
  obtain ⟨-, hnext⟩ := step_next h
  cases hevents : s.events with
  | nil =>
    rw [nextEvent_nil hevents, ← pop_of_nil hevents] at hnext
    exact complete_stepCase (.inl hevents) hnext
  | cons e rest =>
    rw [nextEvent_cons hevents, ← pop_of_cons hevents] at hnext
    cases e with
    | hostRead a =>
      cases hnext
      exact .hostAccess _ rest hevents nofun nofun (hostFrame_memRead a s.pop)
    | hostWrite a v =>
      rcases memWrite_cases hnext with hframe | ⟨i, hfree, hwf, hlegal, hcfg, ht⟩
      · exact .hostAccess _ rest hevents nofun nofun hframe
      · exact .accepted i ⟨a, v, rest, hevents⟩ hfree hwf hlegal hcfg ht
    | coreComplete => exact complete_stepCase (.inr ⟨rest, hevents⟩) hnext
    | reset =>
      cases hnext
      exact .reset rest hevents rfl

/-! ### The fields a completion leaves alone -/

/-- What a completed CONFIG does, by whether its values pass the checks (R63). -/
theorem configEffect_cases (s : State) :
    configEffect s = { s with active := s.latch.cfg, cfgOk := true, phase := .ready } ∧
        validate s.params s.latch.cfg = 0 ∨
    ∃ cause, configEffect s =
      recordError .cfg Instr.config.opcode cause 0 { s with cfgOk := false, phase := .ready } := by
  by_cases h : validate s.params s.latch.cfg = 0
  · exact .inl ⟨configEffect_legal h, h⟩
  · exact .inr ⟨_, configEffect_illegal h⟩

theorem commandEffect_params (i : Instr) (s : State) : (commandEffect i s).params = s.params := by
  cases i with
  | config => rcases configEffect_cases s with ⟨h, -⟩ | ⟨_, h⟩ <;> simp [commandEffect, h]
  | nop | init | absorb | final | permute | abort => rfl

theorem commandEffect_events (i : Instr) (s : State) : (commandEffect i s).events = s.events := by
  cases i with
  | config => rcases configEffect_cases s with ⟨h, -⟩ | ⟨_, h⟩ <;> simp [commandEffect, h]
  | nop | init | absorb | final | permute | abort => rfl

/-- Only CONFIG writes the active configuration and `CFG_OK` (R26). -/
theorem commandEffect_configuration {i : Instr} (h : i ≠ .config) (s : State) :
    (commandEffect i s).active = s.active ∧ (commandEffect i s).cfgOk = s.cfgOk := by
  cases i with
  | config => exact absurd rfl h
  | nop | init | absorb | final | permute | abort => exact ⟨rfl, rfl⟩

/-- Only CONFIG can record an error at its completion (R63). -/
theorem commandEffect_record {i : Instr} (h : i ≠ .config) (s : State) :
    (commandEffect i s).errInfo = s.errInfo ∧ (commandEffect i s).errPend = s.errPend := by
  cases i with
  | config => exact absurd rfl h
  | nop | init | absorb | final | permute | abort => exact ⟨rfl, rfl⟩

/-! ### What no step does -/

/-- A step takes one event off those to come. -/
theorem step_events {s t : State} (h : step s = .next t) : t.events = s.events.tail := by
  cases step_cases h with
  | hostAccess e rest hevents hcomplete hreset hframe => exact hframe.events
  | accepted i hevents hfree hwf hlegal hcfg ht => rw [ht]; rfl
  | completed i hnext hbusy hdecode ht => rw [ht]; exact commandEffect_events i s.pop
  | idle hfree ht => rw [ht]; rfl
  | reset rest hevents ht => rw [ht]; rfl

/-- Settles O59: no case of a step writes them, a reset not either (R17). -/
theorem noStepWritesTheParameters : Obligations.NoStepWritesTheParameters := by
  intro s t h
  cases step_cases h with
  | hostAccess e rest hevents hcomplete hreset hframe => exact hframe.params
  | accepted i hevents hfree hwf hlegal hcfg ht => rw [ht]; rfl
  | completed i hnext hbusy hdecode ht => rw [ht]; exact commandEffect_params i s.pop
  | idle hfree ht => rw [ht]; rfl
  | reset rest hevents ht => rw [ht]; rfl

/-- Settles O60: of all that a step can do, only a host access within its frame is left. -/
theorem hostCannotDisturbABusyCore : Obligations.HostCannotDisturbABusyCore := by
  intro s t e rest hbusy hevents hcomplete hreset h
  cases step_cases h with
  | hostAccess _ _ _ _ _ hframe =>
    exact ⟨hframe.busy.trans hbusy, hframe.latch, hframe.lanes hbusy, hframe.out, hframe.pos, hframe.phase,
      hframe.msgLen, hframe.active, hframe.cfgOk⟩
  | accepted i hevents hfree hwf hlegal hcfg ht => simp [hbusy] at hfree
  | completed i hnext hbusy hdecode ht => simp_all [State.CoreIsNext]
  | idle hfree ht => simp [hbusy] at hfree
  | reset rest' hevents' ht => simp_all

end Sys2Proof.Machine
end

section
/-! SUPPORT. What a squeeze and the further chaining rounds write (R79, R86), and what they leave as it was (R20). -/

namespace Sys2Proof.Machine

variable (P : Params) (rate q : Nat)

/-! ### The frame in the buffer, at every rate -/

theorem squeezeFrom_read_of_ge {a : Nat} (ha : q ≤ a) : ∀ (blocks o : Nat) (A : Lanes) {out : Memory}, out.wf →
    (squeezeFrom P rate q blocks o A out).2.read a = out.read a
  | 0, _, _, _, _ => rfl
  | blocks + 1, o, A, out, h => by
    have hblock : (squeezeBlock A o out (min rate (q - o))).read a = out.read a := by
      rw [squeezeBlock_read A o h, if_neg (by omega)]
    rw [squeezeFrom]
    split
    · rw [squeezeFrom_read_of_ge ha blocks _ _ (squeezeBlock_wf A o h _), hblock]
    · exact hblock

theorem squeeze_read_of_ge {a : Nat} (ha : q ≤ a) (A : Lanes) {out : Memory} (h : out.wf) :
    (squeeze P rate q A out).2.read a = out.read a :=
  squeezeFrom_read_of_ge P rate q ha _ _ A h

theorem chainRound_wf {out : Memory} (h : out.wf) : (chainRound P rate q out).2.wf := squeeze_wf P rate q _ h

theorem chainRounds_read_of_ge {a : Nat} (ha : q ≤ a) : ∀ (n : Nat) {st : Lanes × Memory}, st.2.wf →
    (chainRounds P rate q n st).2.read a = st.2.read a
  | 0, _, _ => rfl
  | n + 1, st, h => by
    rw [chainRounds, chainRounds_read_of_ge ha n (chainRound_wf P rate q h), chainRound,
      squeeze_read_of_ge P rate q ha _ h]

theorem finalRounds_wf (rounds : Nat) (sp : Sponge) {out : Memory} (h : out.wf) :
    (finalRounds P rate q rounds sp out).2.wf :=
  chainRounds_wf P rate q _ (squeeze_wf P rate q _ h)

theorem finalRounds_read_of_ge {a : Nat} (ha : q ≤ a) (rounds : Nat) (sp : Sponge) {out : Memory} (h : out.wf) :
    (finalRounds P rate q rounds sp out).2.read a = out.read a := by
  rw [finalRounds, chainRounds_read_of_ge P rate q ha _ (squeeze_wf P rate q _ h), squeeze_read_of_ge P rate q ha _ h]

/-- Settles O17: the first squeeze and every further round write below `outputLengthBytes` only. -/
theorem finalKeepsBytesAboveTheOutput : Obligations.FinalKeepsBytesAboveTheOutput := by
  intro s t hs hb hwf h a ha
  rw [exec_completes .final hs hb] at h
  cases h
  exact finalRounds_read_of_ge _ _ _ ha _ _ hwf

/-! ### The bytes written -/

/-- From output byte `o` on, with enough blocks allowed: the bytes from `o` to `q` are the blocks of the state, one
permutation apart, and the last block has no permutation after it. -/
theorem squeezeFrom_spec (hr : 0 < rate) : ∀ (blocks o : Nat) (A : Lanes) {out : Memory}, out.wf → q - o < blocks →
    (∀ a, (squeezeFrom P rate q blocks o A out).2.read a =
      if o ≤ a ∧ a < q then sbyte ((permute P)^[(a - o) / rate] A) ((a - o) % rate) else out.read a) ∧
    (squeezeFrom P rate q blocks o A out).1 = (permute P)^[(q - o - 1) / rate] A
  | blocks + 1, o, A, out, h, hblocks => by
    have hread := squeezeBlock_read A o h
    rw [squeezeFrom]
    split
    next hmore =>
      have hmin : min rate (q - o) = rate := by omega
      obtain ⟨hbytes, hlanes⟩ := squeezeFrom_spec hr blocks (o + rate) (permute P A)
        (squeezeBlock_wf A o h rate) (by omega)
      rw [hmin]
      constructor
      · intro a
        rw [hbytes, hread]
        rcases lt_or_ge a (o + rate) with hfirst | hlater
        · rw [if_neg (by omega)]
          by_cases ho : o ≤ a
          · rw [if_pos ⟨ho, hfirst⟩, if_pos ⟨ho, by omega⟩, Nat.div_eq_of_lt (by omega), Nat.mod_eq_of_lt (by omega)]
            rfl
          · rw [if_neg (by omega), if_neg (by omega)]
        · have hstep : a - o = a - (o + rate) + rate := by omega
          rw [hstep, Nat.add_div_right _ hr, Nat.add_mod_right, Function.iterate_succ_apply]
          split
          · rw [if_pos (by omega)]
          · rw [if_neg (by omega), if_neg (by omega)]
      · have hstep : q - o - 1 = q - (o + rate) - 1 + rate := by omega
        rw [hlanes, hstep, Nat.add_div_right _ hr, Function.iterate_succ_apply]
    next hlast =>
      have hmin : min rate (q - o) = q - o := by omega
      rw [hmin]
      constructor
      · intro a
        rw [hread]
        by_cases ha : o ≤ a ∧ a < q
        · rw [if_pos (by omega), if_pos ha, Nat.div_eq_of_lt (by omega), Nat.mod_eq_of_lt (by omega)]
          rfl
        · rw [if_neg (by omega), if_neg ha]
      · rw [Nat.div_eq_of_lt (by omega)]
        rfl

/-- Settles O28: the loop from output byte 0 on, with `q + 1` blocks allowed. -/
theorem squeezeWritesTheOutput : Obligations.SqueezeWritesTheOutput := by
  intro P rate q A out hr h
  obtain ⟨hbytes, hlanes⟩ := squeezeFrom_spec P rate q hr (q + 1) 0 A h (Nat.lt_succ_self q)
  refine ⟨fun j hj => ?_, fun a ha => squeeze_read_of_ge P rate q ha A h, hlanes⟩
  exact (hbytes j).trans (if_pos ⟨j.zero_le, hj⟩)

end Sys2Proof.Machine
end

section
/-! SUPPORT. The invariant (R94 and what keeps it): it holds at reset, every host access and every completion keeps it,
so every step does. -/

namespace Sys2Proof.Machine

/-! ### What the invariant gives -/

theorem State.Inv.rate_bounds {s : State} (h : s.Inv) : 8 ≤ s.rateBytes ∧ s.rateBytes ≤ 200 :=
  (rateBytes_of_validate_eq_zero h.activeLegal).2

theorem State.Inv.toSound {s : State} (h : s.Inv) : s.Sound := h.sound h.rate_bounds

/-- The digest fits the buffer (R62). -/
theorem State.Inv.outBytes_le {s : State} (h : s.Inv) : s.outBytes ≤ s.params.maxOutBytes := by
  obtain ⟨-, -, -, -, homax, -⟩ := (validate_eq_zero_iff _ _).1 h.activeLegal
  unfold State.outBytes CfgWords.outBytes
  omega

/-- The latched command of a busy core (R33), and in which phase it stands. -/
theorem State.Inv.legal_of_decode {s : State} (h : s.Inv) (hbusy : s.busy = true) {i : Instr}
    (hi : decode s.latch.word = .ok i) :
    i.wf = true ∧ legalIn i s.phase = true ∧ (needsCfg i = true → s.cfgOk = true) := by
  obtain ⟨j, hj, hlegal⟩ := h.latched hbusy
  cases hi.symm.trans hj
  exact hlegal

/-! ### The parts the steps change -/

/-- A listed byte reads as it is listed. -/
theorem Memory.read_of_mem : ∀ {m : Memory}, m.wf → ∀ c ∈ m, m.read c.1 = c.2
  | (k, b) :: m, h, c, hc => by
    obtain ⟨hk, -, hm⟩ := Memory.wf_cons.1 h
    rcases List.mem_cons.1 hc with rfl | hc
    · exact if_pos rfl
    · rw [Memory.read, if_neg (hk c hc).ne, Memory.read_of_mem hm c hc]

/-- A buffer that reads 0 from `n` on lists indexes below `n` only. -/
theorem Memory.index_lt_of_read {m : Memory} {n : Nat} (h : m.wf) (hread : ∀ a, n ≤ a → m.read a = Memory.unlisted) :
    ∀ c ∈ m, c.1 < n := by
  intro c hc
  by_contra hge
  exact h.2 c hc ((Memory.read_of_mem h c hc).symm.trans (hread c.1 (by omega)))

/-- The reserved bits of a packed error are 0 (R31). -/
theorem packError_reserved (e : ErrorCode) (op cause : Byte) (off : Nat) :
    packError e op cause off &&& 0xFFFF0000FF000000 = 0 := by
  have hmask : (0xFFFF0000FF000000 : Word) = 0xFFFF#16 ++ 0#16 ++ 0xFF#8 ++ 0#8 ++ 0#8 ++ 0#8 := by decide
  rw [hmask, packError, BitVec.and_append, BitVec.and_append, BitVec.and_append, BitVec.and_append, BitVec.and_append]
  simp only [BitVec.and_zero, BitVec.zero_and]
  decide

/-- `ERR_PEND` agrees with `ERRINFO`, whose reserved bits are 0 (R31, R32). -/
def State.RecordOk (s : State) : Prop := s.errPend = s.err ∧ s.errInfo &&& 0xFFFF0000FF000000 = 0

theorem recordError_recordOk {s : State} (h : s.RecordOk) (e : ErrorCode) (op cause : Byte) (off : Nat) :
    (recordError e op cause off s).RecordOk := by
  refine ⟨(recordError_err e op cause off).symm, ?_⟩
  rw [recordError_errInfo]
  split
  · exact packError_reserved e op cause off
  · exact h.2

theorem RecordMove.recordOk {s t : State} (hmove : RecordMove s t) (h : s.RecordOk) : t.RecordOk := by
  unfold State.RecordOk State.err
  cases hmove with
  | kept hinfo hpend => rwa [hinfo, hpend]
  | cleared hinfo hpend => rw [hinfo, hpend]; decide
  | recorded e op cause off hcfg hinfo hpend =>
    rw [hinfo, hpend]
    exact recordError_recordOk h e op cause off

theorem State.Inv.recordOk {s : State} (h : s.Inv) : s.RecordOk := ⟨h.errAgrees, h.errReserved⟩

/-! ### Host accesses and acceptance -/

theorem State.Inv.pop {s : State} (h : s.Inv) : s.pop.Inv := { h with }

theorem State.Inv.of_hostFrame {s t : State} (h : s.Inv) (hframe : HostFrame s t) : t.Inv := by
  obtain ⟨hparams, hout, hactive, hcfgOk, hbusy, hphase, -, hpos, hlatch, -, -, hrecord⟩ := hframe
  have hrate : t.rateBytes = s.rateBytes := congrArg CfgWords.rateBytes hactive
  have hbytes : t.outBytes = s.outBytes := congrArg CfgWords.outBytes hactive
  obtain ⟨hagrees, hreserved⟩ := hrecord.recordOk h.recordOk
  constructor
  case errAgrees => exact hagrees
  case errReserved => exact hreserved
  all_goals simp only [hparams, hout, hactive, hcfgOk, hbusy, hphase, hpos, hlatch, hrate, hbytes]
  case paramsValid => exact h.paramsValid
  case activeLegal => exact h.activeLegal
  case posInBlock => exact h.posInBlock
  case posIdle => exact h.posIdle
  case configured => exact h.configured
  case latched => exact h.latched
  case outWf => exact h.outWf
  case outBounded => exact h.outBounded
  case outCleared => exact h.outCleared
  case outDigest => exact h.outDigest

/-- The latch holds the word of the command that acceptance latched (R47). -/
theorem decode_latchCommand_word (i : Instr) (s : State) : decode (latchCommand i s).latch.word = .ok i :=
  (decodeEncodeAgree i _).2 rfl

theorem State.Inv.after_latch {s : State} (h : s.Inv) {i : Instr} (hwf : i.wf = true)
    (hlegal : legalIn i s.phase = true) (hcfg : needsCfg i = true → s.cfgOk = true) : (latchCommand i s).Inv :=
  { h with latched := fun _ => ⟨i, decode_latchCommand_word i s, hwf, hlegal, hcfg⟩ }

/-! ### Completions -/

/-- CONFIG is not legal in ABSORBING, so the position is 0, which every rate allows. -/
theorem State.Inv.after_config {s : State} (h : s.Inv) (hphase : s.phase ≠ .absorbing) :
    State.Inv { configEffect s with busy := false } := by
  have hpos : s.pos = 0 := h.posIdle hphase
  rcases configEffect_cases s with ⟨heq, hlegal⟩ | ⟨cause, heq⟩ <;> rw [heq]
  · exact { h with
      latched := nofun
      activeLegal := hlegal
      posInBlock := by simp [hpos]
      posIdle := fun _ => hpos
      configured := nofun
      outCleared := nofun
      outDigest := nofun }
  · obtain ⟨hagrees, hreserved⟩ :=
      recordError_recordOk (s := { s with cfgOk := false, phase := .ready }) h.recordOk .cfg Instr.config.opcode cause 0
    exact { h with
      latched := nofun
      posIdle := fun _ => hpos
      configured := nofun
      outCleared := nofun
      outDigest := nofun
      errAgrees := hagrees
      errReserved := hreserved }

theorem State.Inv.after_init {s : State} (h : s.Inv) (hcfg : s.cfgOk = true) :
    State.Inv { initEffect s with busy := false } :=
  { h with
    latched := nofun
    posInBlock := Nat.zero_le _
    posIdle := fun _ => rfl
    configured := fun _ => hcfg
    outWf := Memory.wf_nil
    outBounded := nofun
    outCleared := fun _ => rfl
    outDigest := nofun }

theorem State.Inv.after_abort {s : State} (h : s.Inv) : State.Inv { abortEffect s with busy := false } :=
  { h with
    latched := nofun
    posInBlock := Nat.zero_le _
    posIdle := fun _ => rfl
    configured := nofun
    outCleared := nofun
    outDigest := nofun }

/-- ABSORB leaves the position in the block, in the phase it is legal in. -/
theorem State.Inv.after_absorb {s : State} (h : s.Inv) (hphase : s.phase = .absorbing) (n : BitVec 4) :
    State.Inv { absorbEffect n s with busy := false } :=
  { h with
    latched := nofun
    posInBlock := absorbBytes_pos_le _ _ (le_trans (by decide) h.rate_bounds.1) _ h.posInBlock
    posIdle := fun hidle => absurd hphase hidle }

/-- FINAL starts from an empty buffer (R81), so it leaves the digest's bytes and no other. -/
theorem State.Inv.after_final {s : State} (h : s.Inv) (hphase : s.phase = .absorbing) :
    State.Inv { finalEffect s with busy := false } := by
  have hwf : (finalEffect s).out.wf := finalRounds_wf _ _ _ _ _ h.outWf
  have hdigest : ∀ c ∈ (finalEffect s).out, c.1 < s.outBytes := by
    refine Memory.index_lt_of_read hwf fun a ha => ?_
    refine (finalRounds_read_of_ge _ _ _ ha _ _ h.outWf).trans ?_
    rw [h.outCleared hphase, Memory.read_nil]
  exact { h with
    latched := nofun
    posInBlock := Nat.zero_le _
    posIdle := fun _ => rfl
    configured := nofun
    outWf := hwf
    outBounded := fun c hc => (hdigest c hc).trans_le h.outBytes_le
    outCleared := nofun
    outDigest := fun _ => hdigest }

theorem State.Inv.after_completion {s : State} (h : s.Inv) {i : Instr} (hlegal : legalIn i s.phase = true)
    (hcfg : needsCfg i = true → s.cfgOk = true) : State.Inv { commandEffect i s with busy := false } := by
  cases i with
  | nop => exact { h with latched := nofun }
  | config => exact h.after_config (bne_iff_ne.1 hlegal)
  | init => exact h.after_init (hcfg rfl)
  | absorb n => exact h.after_absorb (beq_iff_eq.1 hlegal) n
  | final => exact h.after_final (beq_iff_eq.1 hlegal)
  | permute => exact { h with latched := nofun }
  | abort => exact h.after_abort

/-! ### Reset and the step -/

/-- Reset's configuration passes every check, since the smallest buffer holds its 2048 bits (R8, R104). -/
theorem validate_standard {P : Params} (hP : P.valid = true) : validate P .standard = 0 := by
  have hmax : 256 ≤ P.maxOutBytes := by
    simp only [Params.valid, Bool.and_eq_true, decide_eq_true_eq] at hP
    exact hP.1.1.2
  have hout : CfgWords.standard.outlen.toNat = 2048 := rfl
  exact (validate_eq_zero_iff P _).2 ⟨rfl, by decide, by decide, by decide, by omega, by decide⟩

theorem inv_resetWith {P : Params} (hP : P.valid = true) : (State.resetWith P).Inv where
  paramsValid := hP
  activeLegal := validate_standard hP
  posInBlock := Nat.zero_le _
  posIdle _ := rfl
  configured := nofun
  latched := nofun
  outWf := Memory.wf_nil
  outBounded := nofun
  outCleared := nofun
  outDigest := nofun
  errAgrees := rfl
  errReserved := (by decide : (0 : Word) &&& 0xFFFF0000FF000000 = 0)

/-- Settles O52: the default parameters are ones R8 allows. -/
theorem invariantHoldsAtReset : Obligations.InvariantHoldsAtReset :=
  ⟨fun _ hP => inv_resetWith hP, inv_resetWith (by decide)⟩

/-- Settles O53: each case of a step keeps the invariant. -/
theorem stepKeepsTheInvariant : Obligations.StepKeepsTheInvariant := by
  intro s t h hstep
  have hpop : s.pop.Inv := h.pop
  cases step_cases hstep with
  | hostAccess e rest hevents hcomplete hreset hframe => exact hpop.of_hostFrame hframe
  | accepted i hevents hfree hwf hlegal hcfg ht =>
    rw [ht]
    exact (hpop.of_hostFrame (hostFrame_answer _ _)).after_latch hwf hlegal hcfg
  | completed i hnext hbusy hdecode ht =>
    obtain ⟨-, hlegal, hcfg⟩ := h.legal_of_decode hbusy hdecode
    rw [ht]
    exact hpop.after_completion hlegal hcfg
  | idle hfree ht => rwa [ht]
  | reset rest hevents ht =>
    rw [ht]
    exact { inv_resetWith h.paramsValid with }

end Sys2Proof.Machine
end

section
/-! SUPPORT. What the invariant gives of one step and of a run: no step stops (R94), every accepted command completes
(R48), and the configuration is CONFIG's alone (R26, R63). -/

namespace Sys2Proof.Machine

/-! ### No step stops -/

theorem exec_answers (i : Instr) {s : State} (hs : s.Sound) : ∃ t, exec i s = .next t := by
  cases hbusy : s.busy
  · exact ⟨_, exec_presents i hs hbusy⟩
  · exact ⟨_, exec_completes i hs hbusy⟩

theorem complete_answers {s : State} (h : s.Inv) : ∃ t, complete s = .next t := by
  unfold complete
  split
  · rename_i hbusy
    obtain ⟨i, hdecode, -⟩ := h.latched hbusy
    rw [hdecode]
    exact exec_answers i h.toSound
  · exact ⟨s, rfl⟩

theorem presentCommand_answers (c : Word) {s : State} (hs : s.Sound) : ∃ t, presentCommand c s = .next t := by
  unfold presentCommand
  split
  · exact ⟨_, rfl⟩
  · split
    · exact ⟨_, rfl⟩
    · exact exec_answers _ hs

theorem memWrite_answers (a : Access) (v : Word) {s : State} (hs : s.Sound) : ∃ t, memWrite a v s = .next t := by
  unfold memWrite
  split
  · split
    · exact presentCommand_answers v hs
    · exact ⟨_, rfl⟩
  · exact ⟨_, rfl⟩

/-- Settles O54: the guard lets an invariant state through, and each agent's event answers. -/
theorem invariantStatesNeverStop : Obligations.InvariantStatesNeverStop := by
  intro s h
  rw [step_of_sound h.toSound]
  cases hevents : s.events with
  | nil =>
    rw [nextEvent_nil hevents]
    exact complete_answers h
  | cons e rest =>
    rw [nextEvent_cons hevents, ← pop_of_cons hevents]
    cases e with
    | hostRead a => exact ⟨_, rfl⟩
    | hostWrite a v => exact memWrite_answers a v h.pop.toSound
    | coreComplete => exact complete_answers h.pop
    | reset => exact ⟨_, rfl⟩

/-! ### Accepted commands complete -/

/-- With no event left the step frees the core: its command completes, or it has none. -/
theorem step_frees_core {s t : State} (hnil : s.events = []) (h : step s = .next t) : t.busy = false := by
  cases step_cases h with
  | hostAccess e rest hevents hcomplete hreset hframe => simp [hnil] at hevents
  | accepted i hevents hfree hwf hlegal hcfg ht => simp [hnil] at hevents
  | completed i hnext hbusy hdecode ht => rw [ht]
  | idle hfree ht => rw [ht]; exact hfree
  | reset rest hevents ht => rw [ht]; rfl

/-- As many steps as there are events take them all, in the invariant. -/
theorem run_takes_events : ∀ (n : Nat) {s : State}, s.Inv → s.events.length = n →
    ∃ t, run n s = .next t ∧ t.Inv ∧ t.events = []
  | 0, s, h, hlen => ⟨s, rfl, h, List.eq_nil_of_length_eq_zero hlen⟩
  | n + 1, s, h, hlen => by
    obtain ⟨t, ht⟩ := invariantStatesNeverStop s h
    have hrest : t.events.length = n := by rw [step_events ht, List.length_tail, hlen, Nat.add_sub_cancel]
    rw [run_succ_of_step n ht]
    exact run_takes_events n (stepKeepsTheInvariant s t h ht) hrest

/-- Settles O55: all events, then the step that frees the core. -/
theorem acceptedCommandsComplete : Obligations.AcceptedCommandsComplete := by
  intro s h
  obtain ⟨t, hrun, ht, hnil⟩ := run_takes_events _ h rfl
  obtain ⟨u, hu⟩ := invariantStatesNeverStop t ht
  refine ⟨u, ?_, step_frees_core hnil hu⟩
  rw [run_add_of_run 1 hrun, run_succ_of_step 0 hu, run_zero]

/-! ### The configuration is CONFIG's -/

/-- No command latched in ABSORBING is CONFIG (R59). -/
theorem State.Inv.not_config_in_absorbing {s : State} (h : s.Inv) (hbusy : s.busy = true)
    (hdecode : decode s.latch.word = .ok .config) : s.phase ≠ .absorbing := by
  obtain ⟨-, hlegal, -⟩ := h.legal_of_decode hbusy hdecode
  exact bne_iff_ne.1 hlegal

/-- Settles O57: of all that a step can do, only a completed CONFIG and reset are left. -/
theorem activeConfigurationChangesOnlyByConfig : Obligations.ActiveConfigurationChangesOnlyByConfig := by
  intro s t h hstep hchange
  have hsame (hactive : t.active = s.active) (hcfgOk : t.cfgOk = s.cfgOk) : False :=
    hchange.elim (· hactive) (· hcfgOk)
  cases step_cases hstep with
  | hostAccess e rest hevents hcomplete hreset hframe => exact (hsame hframe.active hframe.cfgOk).elim
  | accepted i hevents hfree hwf hlegal hcfg ht => exact (hsame (by rw [ht]; rfl) (by rw [ht]; rfl)).elim
  | completed i hnext hbusy hdecode ht =>
    by_cases hi : i = .config
    · subst hi
      exact .inr ⟨h.not_config_in_absorbing hbusy hdecode, hbusy, hdecode, hnext⟩
    · obtain ⟨hactive, hcfgOk⟩ := commandEffect_configuration hi s.pop
      exact (hsame (by rw [ht]; exact hactive) (by rw [ht]; exact hcfgOk)).elim
  | idle hfree ht => exact (hsame (by rw [ht]; rfl) (by rw [ht]; rfl)).elim
  | reset rest hevents ht => exact .inl ⟨rest, hevents⟩

theorem ErrorCode.code_eq_cfg {e : ErrorCode} (h : e.code = 0x01) : e = .cfg := by
  cases e <;> revert h <;> decide

/-- A host access leaves no `E_CFG` that did not stand before. -/
theorem RecordMove.cfg_stood {s t : State} (h : RecordMove s t) (hcode : errCodeField t.errInfo = 0x01) :
    errCodeField s.errInfo = 0x01 := by
  cases h with
  | kept hinfo hpend => rwa [hinfo] at hcode
  | cleared hinfo hpend =>
    rw [hinfo] at hcode
    exact absurd hcode (by decide)
  | recorded e op cause off hcfg hinfo hpend =>
    rw [hinfo, recordError_errInfo] at hcode
    split at hcode
    · rw [errCodeField_packError] at hcode
      exact absurd (ErrorCode.code_eq_cfg hcode) hcfg
    · exact hcode

/-- Settles O58: a host access records no `E_CFG`, and no CONFIG completes in ABSORBING. -/
theorem noConfigurationErrorMidDigest : Obligations.NoConfigurationErrorMidDigest := by
  intro s t h hphase hstep hcode
  cases step_cases hstep with
  | hostAccess e rest hevents hcomplete hreset hframe => exact hframe.record.cfg_stood hcode
  | accepted i hevents hfree hwf hlegal hcfg ht => rwa [ht] at hcode
  | completed i hnext hbusy hdecode ht =>
    have hi : i ≠ .config := by
      rintro rfl
      exact h.not_config_in_absorbing hbusy hdecode hphase
    have hkept : t.errInfo = s.errInfo := by
      rw [ht]
      exact (commandEffect_record hi s.pop).1
    rwa [hkept] at hcode
  | idle hfree ht => rwa [ht] at hcode
  | reset rest hevents ht =>
    rw [ht] at hcode
    exact absurd hcode (by decide : errCodeField 0 ≠ 0x01)

end Sys2Proof.Machine
end

section
/-! SUPPORT. Words and lanes bit by bit and byte by byte (R12, R13, R40): the rotation, and what one XOR into the state
changes. -/

namespace Sys2Proof.Machine

/-! ### The rotation -/

/-- Settles O18: a bit is moved by the left shift unless it falls off the top, and then by the right shift. -/
theorem rotateMovesEachBit : Obligations.RotateMovesEachBit := by
  intro v n i hi
  have hbit : (rotl64 v n).getLsbD ((i + n) % 64) =
      (!decide ((i + n) % 64 < n % 64) && v.getLsbD ((i + n) % 64 - n % 64) ||
        v.getLsbD (64 - n % 64 + (i + n) % 64)) := by
    simp only [rotl64, BitVec.getLsbD_or, BitVec.getLsbD_shiftLeft, BitVec.getLsbD_ushiftRight]
    rw [decide_eq_true (Nat.mod_lt _ (by decide)), Bool.true_and]
  rw [hbit]
  rcases lt_or_ge (i + n % 64) 64 with hkept | hwrapped
  · have hto : (i + n) % 64 = i + n % 64 := by omega
    rw [hto, BitVec.getLsbD_of_ge v (64 - n % 64 + (i + n % 64)) (by omega), Nat.add_sub_cancel]
    simp
  · have hto : (i + n) % 64 = i + n % 64 - 64 := by omega
    have hfrom : 64 - n % 64 + (i + n % 64 - 64) = i := by omega
    have hlow : i + n % 64 - 64 < n % 64 := by omega
    rw [hto, hfrom, decide_eq_true hlow]
    simp

/-! ### Bytes of a word and of the state -/

theorem getLsbD_byteOf (v : Word) (k m : Nat) : (byteOf v k).getLsbD m = (decide (m < 8) && v.getLsbD (8 * k + m)) :=
  BitVec.getLsbD_extractLsb' ..

theorem word_ext_byteOf {v w : Word} (h : ∀ k < 8, byteOf v k = byteOf w k) : v = w := by
  refine BitVec.eq_of_getLsbD_eq fun i hi => ?_
  have hbyte : (byteOf v (i / 8)).getLsbD (i % 8) = (byteOf w (i / 8)).getLsbD (i % 8) := by rw [h _ (by omega)]
  simpa only [getLsbD_byteOf, Nat.div_add_mod, decide_eq_true (Nat.mod_lt i (by decide : 0 < 8)), Bool.true_and]
    using hbyte

theorem byteOf_xor (v w : Word) (k : Nat) : byteOf (v ^^^ w) k = byteOf v k ^^^ byteOf w k :=
  BitVec.extractLsb'_xor

/-- A byte shifted to place `k` of a word is that word's byte `k`, and its others are 0. -/
theorem byteOf_shifted (b : Byte) {k l : Nat} (hl : l < 8) :
    byteOf (b.zeroExtend 64 <<< (k * 8)) l = if l = k then b else 0 := by
  refine BitVec.eq_of_getLsbD_eq fun m hm => ?_
  have h64 : 8 * l + m < 64 := by omega
  rw [getLsbD_byteOf, BitVec.getLsbD_shiftLeft, BitVec.getLsbD_setWidth]
  rcases lt_trichotomy l k with hlt | rfl | hgt
  · have hbelow : 8 * l + m < k * 8 := by omega
    simp [hbelow, hlt.ne]
  · have hsub : 8 * l + m - l * 8 = m := by omega
    have hnot : ¬8 * l + m < l * 8 := by omega
    have hm64 : m < 64 := by omega
    simp [hsub, hnot, hm, h64, hm64]
  · have habove : 8 ≤ 8 * l + m - k * 8 := by omega
    simp [BitVec.getLsbD_of_ge b _ habove, hgt.ne']

/-- Equal bytes make equal lane files. -/
theorem lanes_ext_sbyte {A B : Lanes} (h : ∀ j < 200, sbyte A j = sbyte B j) : A = B := by
  refine lanes_ext fun i hi => word_ext_byteOf fun k hk => ?_
  have hdiv : (8 * i + k) / 8 = i := by omega
  have hmod : (8 * i + k) % 8 = k := by omega
  simpa only [sbyte, hdiv, hmod] using h (8 * i + k) (by omega)

/-- What one XOR changes; an index above the state changes nothing. -/
theorem sbyte_sxor (A : Lanes) (i : Nat) (b : Byte) {j : Nat} (hj : j < 200) :
    sbyte (sxor A i b) j = sbyte A j ^^^ if j = i then b else 0 := by
  have hplace : j = i ↔ j / 8 = i / 8 ∧ j % 8 = i % 8 := by omega
  unfold sbyte
  rw [laneAt_sxor]
  by_cases hlane : j / 8 = i / 8
  · rw [if_pos ⟨hlane, by omega⟩, byteOf_xor, byteOf_shifted b (Nat.mod_lt _ (by decide))]
    simp only [hplace, hlane, true_and]
  · rw [if_neg fun h => hlane h.1, if_neg fun h => hlane (hplace.1 h).1]
    exact BitVec.xor_zero.symm

/-- Settles O19: the lane's other bytes meet a 0. -/
theorem sxorTouchesOneByte : Obligations.SxorTouchesOneByte := by
  intro A i j b _ hj
  rw [sbyte_sxor A i b hj]
  split
  · rfl
  · exact BitVec.xor_zero

theorem sbyte_padBlock (rate : Nat) (sp : Sponge) {j : Nat} (hj : j < 200) : sbyte (padBlock rate sp) j =
    sbyte sp.lanes j ^^^ (if j = sp.pos then 0x06 else 0) ^^^ (if j = rate - 1 then 0x80 else 0) := by
  rw [padBlock, sbyte_sxor _ _ _ hj, sbyte_sxor _ _ _ hj]

/-- Settles O26: the padding is two XORs. -/
theorem paddingMarksTwoBytes : Obligations.PaddingMarksTwoBytes := fun rate sp _ _ _ hj => sbyte_padBlock rate sp hj

end Sys2Proof.Machine
end

section
/-! SUPPORT. Absorption (R77, R78, R80): the position after a message, what a block within the rate XORs, and why the
deferred permutation leaves the lanes the source's chunk-wise absorption leaves. -/

namespace Sys2Proof.Machine

/-! ### The position -/

theorem absorbByte_pos (P : Params) (rate : Nat) (sp : Sponge) (b : Byte) :
    (absorbByte P rate sp b).pos = if sp.pos = rate then 1 else sp.pos + 1 := by
  unfold absorbByte
  split <;> rfl

/-- Within the last chunk: a full one is left at `rate`, not at 0, since its permutation is deferred. -/
theorem absorbBytes_pos (P : Params) {rate : Nat} (hr : 0 < rate) (A : Lanes) (bs : List Byte) :
    (absorbBytes P rate ⟨A, 0⟩ bs).pos = if bs = [] then 0 else (bs.length - 1) % rate + 1 := by
  induction bs using List.reverseRecOn with
  | nil => rfl
  | append_singleton bs b ih =>
    rw [absorbBytes_append, absorbBytes_cons, absorbBytes_nil, absorbByte_pos, ih, if_neg (by simp : bs ++ [b] ≠ []),
      List.length_append, List.length_singleton, Nat.add_sub_cancel]
    by_cases hnil : bs = []
    · subst hnil
      rw [if_pos rfl, if_neg (by omega)]
      simp
    · obtain ⟨n, hn⟩ : ∃ n, bs.length = n + 1 :=
        Nat.exists_eq_succ_of_ne_zero fun h => hnil (List.eq_nil_of_length_eq_zero h)
      rw [if_neg hnil, hn, Nat.add_sub_cancel]
      rw [← Nat.mod_add_mod n rate 1]
      have hlt := Nat.mod_lt n hr
      by_cases hfull : n % rate + 1 = rate
      · rw [if_pos hfull, hfull, Nat.mod_self]
      · rw [if_neg hfull, Nat.mod_eq_of_lt (by omega : n % rate + 1 < rate)]

/-- Settles O25: `⌈L / rate⌉ - 1` full chunks come before the last one. -/
theorem absorbPositionFormula : Obligations.AbsorbPositionFormula := by
  intro P rate A bs hr
  rw [absorbBytes_pos P hr]
  by_cases hnil : bs = []
  · rw [if_pos hnil, if_pos hnil]
  · obtain ⟨n, hn⟩ : ∃ n, bs.length = n + 1 :=
      Nat.exists_eq_succ_of_ne_zero fun h => hnil (List.eq_nil_of_length_eq_zero h)
    have hchunks : n + 1 + rate - 1 = n + rate := by omega
    have hsplit := Nat.mod_add_div n rate
    rw [if_neg hnil, if_neg hnil, hn, hchunks, Nat.add_div_right _ hr, Nat.add_sub_cancel, Nat.succ_sub_one]
    omega

/-! ### A block within the rate -/

/-- XOR a sequence of bytes into the state from byte `o` on. -/
def xorFrom (o : Nat) (A : Lanes) (block : List Byte) : Lanes :=
  (block.zipIdx o).foldl (fun A bi => sxor A bi.2 bi.1) A

theorem sourceBlock_eq_xorFrom (A : Lanes) (block : List Byte) : sourceBlock A block = xorFrom 0 A block := rfl

theorem xorFrom_cons (o : Nat) (A : Lanes) (b : Byte) (bs : List Byte) :
    xorFrom o A (b :: bs) = xorFrom (o + 1) (sxor A o b) bs := rfl

theorem sbyte_xorFrom {j : Nat} (hj : j < 200) : ∀ (block : List Byte) (o : Nat) (A : Lanes),
    sbyte (xorFrom o A block) j = sbyte A j ^^^ if o ≤ j then block[j - o]?.getD 0 else 0
  | [], o, A => by
    simp [xorFrom]
  | b :: bs, o, A => by
    rw [xorFrom_cons, sbyte_xorFrom hj bs, sbyte_sxor A o b hj]
    rcases lt_trichotomy j o with hlt | rfl | hgt
    · simp [hlt.ne, not_le.2 hlt, not_le.2 (Nat.lt_succ_of_lt hlt)]
    · simp
    · have hstep : j - o = j - (o + 1) + 1 := by omega
      simp [hgt.ne', hgt.le, Nat.succ_le_of_lt hgt, hstep]

theorem sbyte_sourceBlock (A : Lanes) (block : List Byte) {j : Nat} (hj : j < 200) :
    sbyte (sourceBlock A block) j = sbyte A j ^^^ block[j]?.getD 0 := by
  rw [sourceBlock_eq_xorFrom, sbyte_xorFrom hj, if_pos (Nat.zero_le j), Nat.sub_zero]

/-- Bytes that fit the block are XORed in without a permutation. -/
theorem absorbBytes_within (P : Params) (rate : Nat) : ∀ (bs : List Byte) (p : Nat) (A : Lanes), p + bs.length ≤ rate →
    absorbBytes P rate ⟨A, p⟩ bs = ⟨xorFrom p A bs, p + bs.length⟩
  | [], _, _, _ => rfl
  | b :: bs, p, A, h => by
    rw [List.length_cons] at h ⊢
    have hp : p ≠ rate := by omega
    rw [absorbBytes_cons, absorbByte_within P rate b (sp := ⟨A, p⟩) hp,
      absorbBytes_within P rate bs (p + 1) (sxor A p b) (by omega), xorFrom_cons, Nat.add_right_comm, Nat.add_assoc p]

/-- A block of at most `rate` bytes, absorbed from position 0. -/
theorem absorbBytes_block (P : Params) {rate : Nat} (A : Lanes) {bs : List Byte} (h : bs.length ≤ rate) :
    absorbBytes P rate ⟨A, 0⟩ bs = ⟨sourceBlock A bs, bs.length⟩ := by
  rw [absorbBytes_within P rate bs 0 A (by omega), Nat.zero_add, sourceBlock_eq_xorFrom]

/-! ### The padded block -/

theorem sourcePad_getElem? (rate : Nat) (rest : List Byte) (j : Nat) :
    (sourcePad rate rest)[j]?.getD 0 =
      if j < rate then
        (if j = rest.length then 0x06 else rest[j]?.getD 0) ||| (if j + 1 = rate then 0x80 else 0)
      else 0 := by
  split <;> simp_all [sourcePad]

/-- The source's padded block is the remainder and the two marks of R78: the OR meets 0 or the first mark only. -/
theorem sourcePad_getD {rate : Nat} {rest : List Byte} (h : rest.length < rate) (j : Nat) :
    (sourcePad rate rest)[j]?.getD 0 =
      rest[j]?.getD 0 ^^^ (if j = rest.length then 0x06 else 0) ^^^ (if j = rate - 1 then 0x80 else 0) := by
  have hlast : j + 1 = rate ↔ j = rate - 1 := by omega
  simp only [sourcePad_getElem?, hlast]
  rcases lt_or_ge j rest.length with hrest | hpast
  · have hne : j ≠ rate - 1 := by omega
    simp [hrest.trans h, hrest.ne, hne]
  · rw [List.getElem?_eq_none hpast]
    by_cases hj : j < rate
    · rw [if_pos hj]
      split <;> split <;> rfl
    · rw [if_neg hj, if_neg (by omega), if_neg (by omega)]
      rfl

/-- Absorbing the padded final block is absorbing the remainder and marking it. -/
theorem padBlock_sourceBlock {rate : Nat} (A : Lanes) {rest : List Byte} (h : rest.length < rate) :
    padBlock rate ⟨sourceBlock A rest, rest.length⟩ = sourceBlock A (sourcePad rate rest) := by
  refine lanes_ext_sbyte fun j hj => ?_
  rw [sbyte_padBlock _ _ hj, sbyte_sourceBlock _ _ hj, sbyte_sourceBlock _ _ hj, sourcePad_getD h]
  simp only [BitVec.xor_assoc]

/-! ### The deferred permutation -/

theorem settleChunk_full (P : Params) {rate : Nat} {sp : Sponge} (h : sp.pos = rate) : settleChunk P rate sp =
    { lanes := if P.lastChunkPermuted then permute P sp.lanes else sp.lanes, pos := 0 } := if_pos h

theorem settleChunk_partial (P : Params) {rate : Nat} {sp : Sponge} (h : sp.pos ≠ rate) : settleChunk P rate sp = sp :=
  if_neg h

/-- The remainder of a message, absorbed after a permutation. -/
theorem finishAbsorb_remainder (P : Params) {rate : Nat} (A : Lanes) {rest : List Byte} (h : rest.length < rate) :
    finishAbsorb P rate (absorbBytes P rate ⟨A, 0⟩ rest) = permute P (sourceBlock A (sourcePad rate rest)) := by
  rw [absorbBytes_block P A h.le, finishAbsorb, settleChunk_partial P h.ne, padBlock_sourceBlock A h]

/-- A full chunk in front of more bytes, or of the padding where that permutes it, may be permuted at once. -/
theorem finishAbsorb_after_full_chunk (P : Params) {rate : Nat} (hr : 0 < rate) (A : Lanes) {bs : List Byte}
    (h : bs ≠ [] ∨ P.lastChunkPermuted = true) :
    finishAbsorb P rate (absorbBytes P rate ⟨A, rate⟩ bs) =
      finishAbsorb P rate (absorbBytes P rate ⟨permute P A, 0⟩ bs) := by
  cases bs with
  | nil =>
    have hperm : P.lastChunkPermuted = true := h.resolve_left (absurd rfl)
    rw [absorbBytes_nil, absorbBytes_nil, finishAbsorb, finishAbsorb, settleChunk_full P (sp := ⟨A, rate⟩) rfl,
      settleChunk_partial P (sp := ⟨permute P A, 0⟩) hr.ne, if_pos hperm]
  | cons b bs =>
    rw [absorbBytes_cons, absorbBytes_cons, absorbByte_deferred P rate b rfl,
      absorbByte_within P rate b (sp := ⟨permute P A, 0⟩) hr.ne]

/-- A message of exactly one full chunk, where the padding does not permute it (conflict C2). -/
theorem finishAbsorb_unpermuted_chunk (P : Params) {rate : Nat} (hr : 0 < rate) (A : Lanes) {msg : List Byte}
    (hlen : msg.length = rate) (hperm : P.lastChunkPermuted = false) :
    finishAbsorb P rate (absorbBytes P rate ⟨A, 0⟩ msg) =
      permute P (sourceBlock (sourceBlock A msg) (sourcePad rate [])) := by
  have hpad := padBlock_sourceBlock (sourceBlock A msg) (rest := []) hr
  rw [absorbBytes_block P A hlen.le, finishAbsorb, settleChunk_full P hlen, if_neg (by simp [hperm]), ← hpad]
  rfl

/-- The chunk-wise procedure, with enough chunks allowed. -/
theorem finishAbsorb_eq_sourceAbsorb (P : Params) {rate : Nat} (hr : 0 < rate) :
    ∀ (chunks : Nat) (A : Lanes) (msg : List Byte), msg.length ≤ chunks →
      finishAbsorb P rate (absorbBytes P rate ⟨A, 0⟩ msg) = sourceAbsorb P rate chunks A msg
  | 0, A, msg, h => finishAbsorb_remainder P A (by omega)
  | chunks + 1, A, msg, h => by
    rw [sourceAbsorb]
    split
    · rename_i hrest
      exact finishAbsorb_remainder P A hrest
    · rename_i hfull
      split
      · rename_i hexact
        exact finishAbsorb_unpermuted_chunk P hr A hexact.1 hexact.2
      · rename_i hmore
        have htake : (msg.take rate).length = rate := by rw [List.length_take]; omega
        have hdrop : msg.drop rate ≠ [] ∨ P.lastChunkPermuted = true := by
          by_contra hnone
          push Not at hnone
          refine hmore ⟨?_, by simpa using hnone.2⟩
          have := List.drop_eq_nil_iff.1 hnone.1
          omega
        calc finishAbsorb P rate (absorbBytes P rate ⟨A, 0⟩ msg)
            = finishAbsorb P rate (absorbBytes P rate (absorbBytes P rate ⟨A, 0⟩ (msg.take rate)) (msg.drop rate)) := by
              rw [← absorbBytes_append, List.take_append_drop]
          _ = finishAbsorb P rate (absorbBytes P rate ⟨sourceBlock A (msg.take rate), rate⟩ (msg.drop rate)) := by
              rw [absorbBytes_block P A htake.le, htake]
          _ = finishAbsorb P rate (absorbBytes P rate ⟨permute P (sourceBlock A (msg.take rate)), 0⟩ (msg.drop rate)) :=
              finishAbsorb_after_full_chunk P hr _ hdrop
          _ = sourceAbsorb P rate chunks (permute P (sourceBlock A (msg.take rate))) (msg.drop rate) :=
              finishAbsorb_eq_sourceAbsorb P hr chunks _ _ (by rw [List.length_drop]; omega)

/-- Settles O27: a message has at most as many chunks as bytes. -/
theorem absorptionMatchesTheSource : Obligations.AbsorptionMatchesTheSource :=
  fun P _ A msg hr => finishAbsorb_eq_sourceAbsorb P hr msg.length A msg le_rfl

end Sys2Proof.Machine
end

section
/-! SUPPORT. The step of each event of a sound state (R16, R49), the map of the window (R38), and the whole next state
of every host access that presents no command (R41 to R45), of reset and of a step that stops. -/

namespace Sys2Proof.Machine

theorem step_takes_event {s : State} {e : Event} {rest : List Event} (hs : s.Sound) (h : s.events = e :: rest) :
    step s = takeEvent e { s with events := rest } := by
  rw [step_of_sound hs, nextEvent_cons h]

/-! ### Accesses that are not whole, and reads -/

theorem whole_eq_false_iff (P : Params) (a : Access) : a.whole P = false ↔
    a.off % 8 ≠ 0 ∨ 0x200 + P.maxOutBytes ≤ a.off ∨ a.width ≠ 8 ∨ a.enables ≠ 0xFF := by
  have hwin : 0x200 + P.maxOutBytes = P.win := rfl
  rw [hwin]
  simp only [Access.whole, Bool.and_eq_false_iff, beq_eq_false_iff_ne, decide_eq_false_iff_not, not_lt, or_assoc, ne_eq]

/-- Settles O32: the access is not whole, so both directions are a bus error. -/
theorem busErrors : Obligations.BusErrors := by
  intro s a rest hs hbad
  have hwhole : a.whole s.params = false := (whole_eq_false_iff _ _).2 hbad
  constructor
  · intro h
    rw [step_takes_event hs h, takeEvent, memRead, if_neg (by simp [hwhole])]
    rfl
  · intro v h
    rw [step_takes_event hs h, takeEvent, memWrite, if_neg (by simp [hwhole])]
    rfl

/-- Settles O33: the access is whole, and only the answer is written. -/
theorem readsHaveNoSideEffect : Obligations.ReadsHaveNoSideEffect := by
  intro s off rest hs h8 hwin h
  rw [step_takes_event hs h, takeEvent, memRead, if_pos (whole_at h8 hwin)]
  rfl

/-! ### The register map -/

theorem regAt_of_ge {off : Nat} (h : 0x080 ≤ off) : regAt off =
    if off ≤ 0x140 then .lane ((off - 0x080) / 8)
    else if off < 0x200 then .reserved
    else .outw ((off - 0x200) / 8) := by
  rw [regAt]
  iterate 16 rw [if_neg (by omega)]

theorem regAt_lane {i : Nat} (h : i < 25) : regAt (0x080 + 8 * i) = .lane i := by
  rw [regAt_of_ge (by omega), if_pos (by omega)]
  congr 1
  omega

theorem regAt_reserved {off : Nat} (hlow : 0x148 ≤ off) (hhigh : off < 0x200) : regAt off = .reserved := by
  rw [regAt_of_ge (by omega), if_neg (by omega), if_pos hhigh]

theorem regAt_outw_of_ge {off : Nat} (h : 0x200 ≤ off) : regAt off = .outw ((off - 0x200) / 8) := by
  rw [regAt_of_ge (by omega), if_neg (by omega), if_neg (by omega)]

theorem regAt_outw (j : Nat) : regAt (0x200 + 8 * j) = .outw j := by
  rw [regAt_outw_of_ge (by omega)]
  congr 1
  omega

/-- Settles O34: the sixteen low offsets by evaluation, the ranges by their bounds. -/
theorem registerMap : Obligations.RegisterMap :=
  ⟨rfl, rfl, rfl, rfl, rfl, rfl, rfl, rfl, rfl, rfl, rfl, rfl, rfl, rfl, rfl, rfl,
    fun _ => regAt_lane, fun _ => regAt_reserved, regAt_outw⟩

/-! ### Writes -/

/-- A whole write to any register but `CMD`. -/
theorem step_write {s : State} {off : Nat} {v : Word} {rest : List Event} (hs : s.Sound) (h8 : off % 8 = 0)
    (hwin : off < 0x200 + s.params.maxOutBytes) (hcmd : regAt off ≠ .cmd)
    (h : s.events = .hostWrite (Access.at off) v :: rest) :
    step s = .next (writeReg off v { s with events := rest, response := some (.write false) } (regAt off)) := by
  have hreg : regAt (Access.at off).off ≠ .cmd := hcmd
  rw [step_takes_event hs h, takeEvent, memWrite, if_pos (whole_at h8 hwin), if_neg hreg]
  rfl

/-- Settles O41: the access is whole and its register is the lane. -/
theorem laneWrites : Obligations.LaneWrites := by
  intro s i v rest hs h
  have hreg := regAt_lane i.isLt
  have hstore : s.lanes.setIfInBounds i.val v = s.lanes.set i.val v := by
    ext j hj
    rw [Vector.getElem_setIfInBounds, Vector.getElem_set]
  rw [step_write hs (by omega) (by omega) (by rw [hreg]; nofun) h, hreg, writeReg, writeLane]
  simp only [hstore]

/-- The registers whose writes are ignored (R42). -/
theorem writeReg_readOnly {off : Nat} (h8 : off % 8 = 0)
    (h : off = 0x000 ∨ off = 0x008 ∨ (0x040 ≤ off ∧ off ≤ 0x068) ∨ off = 0x078 ∨ 0x148 ≤ off) :
    regAt off ≠ .cmd ∧ ∀ v s, writeReg off v s (regAt off) = s := by
  rcases h with rfl | rfl | ⟨hlow, hhigh⟩ | rfl | hhigh
  · exact ⟨nofun, fun _ _ => rfl⟩
  · exact ⟨nofun, fun _ _ => rfl⟩
  · obtain rfl | rfl | rfl | rfl | rfl | rfl : off = 0x040 ∨ off = 0x048 ∨ off = 0x050 ∨ off = 0x058 ∨ off = 0x060 ∨
        off = 0x068 := by omega
    all_goals exact ⟨nofun, fun _ _ => rfl⟩
  · exact ⟨nofun, fun _ _ => rfl⟩
  · rcases lt_or_ge off 0x200 with hmid | hout
    · rw [regAt_reserved hhigh hmid]
      exact ⟨nofun, fun _ _ => rfl⟩
    · rw [regAt_outw_of_ge hout]
      exact ⟨nofun, fun _ _ => rfl⟩

/-- Settles O43: none of these registers is `CMD`, and `WriteReg` leaves the state as it is. -/
theorem ignoredWrites : Obligations.IgnoredWrites := by
  intro s off v rest hs h8 hwin hoff h
  obtain ⟨hcmd, hsame⟩ := writeReg_readOnly h8 hoff
  rw [step_write hs h8 hwin hcmd h, hsame]

/-- Settles O44: the low 32 bits of the value are its bits 31:0. -/
theorem dinAndStagingWrites : Obligations.DinAndStagingWrites := by
  intro s off v rest hs h t
  have hlow : v.extractLsb' 0 32 = v.setWidth 32 := (BitVec.setWidth_eq_extractLsb' (by decide)).symm
  rw [← hlow]
  refine ⟨?_, ?_, ?_, ?_, ?_⟩ <;> rintro rfl <;> rw [step_write hs (by decide) (by omega) (by decide) h] <;> rfl

/-- Settles O45: each bit of the value acts on its own field. -/
theorem intWrites : Obligations.IntWrites := by
  intro s v rest hs h
  rw [step_write hs (by decide) (by omega) (by decide) h]
  exact congrArg Host.Outcome.next (writeInt_eq_with v _)

/-! ### Reset, waiting and stopping -/

/-- Settles O48: the reset event asks nothing of the state but its parameters. -/
theorem resetEventResets : Obligations.ResetEvent := by
  intro s rest hs h
  rw [step_takes_event hs h]
  rfl

/-- Settles O49: with no event left the core's own is next, and a free core has none. -/
theorem freeCoreWaits : Obligations.FreeCoreWaits := by
  intro s hs hfree h
  rw [step_of_sound hs, nextEvent_nil h, complete, if_neg (by simp [hfree])]

/-- Settles O50: the checks of the guard, in their order. -/
theorem brokenInvariantsStop : Obligations.BrokenInvariantsStop := by
  intro s
  refine ⟨fun hparams => ?_, fun hparams hpos => ?_, fun hparams hpos hphase hcfg => ?_,
    fun hparams hpos hcfg hrate => ?_⟩ <;> rw [step, guarded]
  · rw [if_pos (by simp [hparams])]
  · rw [if_neg (by simp [hparams]), if_pos hpos]
  · rw [if_neg (by simp [hparams]), if_neg (by omega), if_pos ⟨hphase, hcfg⟩]
  · rw [if_neg (by simp [hparams]), if_neg (by omega), if_neg (by simp [hcfg]), if_pos ⟨hcfg, by omega⟩]

/-- Settles O51: in both cases the core's completion is next. -/
theorem undecodableLatchStops : Obligations.UndecodableLatchStops := by
  intro s e hs hbusy hdecode hnext
  have hstops {t : State} (hb : t.busy = true) (hl : t.latch = s.latch) : complete t = .fault .latchHoldsNoCommand := by
    rw [complete, if_pos hb, hl, hdecode]
  rcases hnext with h | ⟨rest, h⟩
  · rw [step_of_sound hs, nextEvent_nil h]
    exact hstops hbusy rfl
  · rw [step_takes_event hs h]
    exact hstops hbusy rfl

/-- Settles O47: the registers made of fields or sizes are evaluated, the others are their state. -/
theorem resetValues : Obligations.ResetValues := by
  intro P s
  have hlanes (i : Fin 25) : s.lanes[i] = 0 := Vector.getElem_replicate i.isLt
  have hrate : readReg s .rateBytes = 72 := (by decide : BitVec.ofNat 64 CfgWords.standard.rateBytes = 72)
  have hout : readReg s .outBytes = 256 := (by decide : BitVec.ofNat 64 CfgWords.standard.outBytes = 256)
  have hrounds : readReg s .rounds = 12 := (by decide : CfgWords.standard.rounds.zeroExtend 64 = 12)
  have hstatus : readReg s .status = 0x8 := (by decide : 0#58 ++ 0#1 ++ 0#1 ++ 1#1 ++ 0#2 ++ 0#1 = (8 : Word))
  have hint : readReg s .int = 0 := (by decide : 0#54 ++ 0#1 ++ 0#1 ++ 0#6 ++ 0#1 ++ 0#1 = (0 : Word))
  exact ⟨hlanes, Memory.read_nil, rfl, rfl, rfl, hrate, hout, hrounds, hstatus, rfl, rfl, rfl, hint, rfl, rfl, rfl, rfl,
    rfl, rfl, rfl⟩

end Sys2Proof.Machine
end

section
/-! SUPPORT. Acceptance (R47, R90): the checks on a `CMD` write read off the word's fields, and that a step runs the
command its word decodes to. -/

namespace Sys2Proof.Machine

/-! ### The checks by the fields of the word -/

theorem wf_eq_false_iff (i : Instr) :
    i.wf = false ↔ i.opcode = 0x03 ∧ (i.operandN = 0 ∨ 8 < i.operandN) := by
  cases i with
  | absorb n =>
    simp only [Instr.wf, Instr.absorbsSomething, Instr.absorbsAtMostDin, Instr.opcode, Instr.operandN,
      Bool.and_eq_false_iff, bne_eq_false_iff_eq, decide_eq_false_iff_not, BitVec.not_le, true_and]
  | nop | config | init | final | permute | abort => decide

theorem legalIn_eq_false_iff (i : Instr) (p : Phase) : legalIn i p = false ↔
    (p = .absorbing ∧ (i.opcode = 0x01 ∨ i.opcode = 0x05)) ∨
      (p ≠ .absorbing ∧ (i.opcode = 0x03 ∨ i.opcode = 0x04)) := by
  cases i <;> simp [legalIn, Instr.opcode]

theorem needsCfg_eq_true_iff (i : Instr) : needsCfg i = true ↔ i.opcode = 0x02 := by
  cases i <;> simp [needsCfg, Instr.opcode]

theorem accept_eq_checks (i : Instr) (s : State) : accept i s =
    if i.opcode = 0x03 ∧ (i.operandN = 0 ∨ 8 < i.operandN) then recordError .arg i.opcode 0 0 s
    else if (s.phase = .absorbing ∧ (i.opcode = 0x01 ∨ i.opcode = 0x05)) ∨
        (s.phase ≠ .absorbing ∧ (i.opcode = 0x03 ∨ i.opcode = 0x04)) then recordError .phase i.opcode 0 0 s
    else if i.opcode = 0x02 ∧ s.cfgOk = false then recordError .noCfg i.opcode 0 0 s
    else latchCommand i s := by
  simp only [accept, ← wf_eq_false_iff, ← legalIn_eq_false_iff, ← needsCfg_eq_true_iff, Bool.not_eq_true',
    Bool.and_eq_true]

/-! ### The write of a command word -/

theorem step_command_word {s : State} {c : Word} {rest : List Event} (hs : s.Sound)
    (h : s.events = .hostWrite (Access.at 0x010) c :: rest) :
    step s = presentCommand c { s with events := rest, response := some (.write false) } := by
  have hcmd : regAt (Access.at 0x010).off = .cmd := rfl
  rw [step_takes_event hs h, takeEvent, memWrite, if_pos (whole_at_fixed (by decide) (by decide)), if_pos hcmd]
  rfl

theorem presentCommand_busy {c : Word} {s : State} (hbusy : s.busy = true) :
    presentCommand c s = .next (recordError .busy (opField c) 0 0 s) := if_pos hbusy

theorem presentCommand_illegal {c : Word} {s : State} (hfree : s.busy = false)
    (hillegal : 6 < opField c ∨ rsvField c ≠ 0 ∨ (nField c ≠ 0 ∧ opField c ≠ 0x03)) :
    presentCommand c s = .next (recordError .illegal (opField c) 0 0 s) := by
  obtain ⟨e, he⟩ := (decode_eq_error_iff c).2 hillegal
  rw [presentCommand, if_neg (by simp [hfree]), he]

theorem presentCommand_decoded {c : Word} {i : Instr} {s : State} (hs : s.Sound) (hfree : s.busy = false)
    (hi : decode c = .ok i) : presentCommand c s = .next (accept i s) := by
  rw [presentCommand, if_neg (by simp [hfree]), hi]
  exact exec_presents i hs hfree

/-- Settles O5: the three kinds are those the decoder rejects. -/
theorem illegalWordsAreRefused : Obligations.IllegalWordsAreRefused := by
  intro s c rest hs hfree h hillegal
  have hop : 7 ≤ opField c → 6 < opField c := by bv_omega
  rw [step_command_word hs h]
  exact presentCommand_illegal hfree (hillegal.imp_left hop)

/-- Settles O6: `E_BUSY`, `E_ILLEGAL`, and then the decoded command's own checks. -/
theorem commandAcceptance : Obligations.CommandAcceptance := by
  intro s c rest hs h
  rw [step_command_word hs h]
  extract_lets t op n
  by_cases hbusy : s.busy = true
  · rw [if_pos hbusy]
    exact presentCommand_busy hbusy
  have hfree : s.busy = false := by simpa using hbusy
  rw [if_neg hbusy]
  by_cases hillegal : 6 < op ∨ rsvField c ≠ 0 ∨ (n ≠ 0 ∧ op ≠ 0x03)
  · rw [if_pos hillegal]
    exact presentCommand_illegal hfree hillegal
  rw [if_neg hillegal]
  cases hdecode : decode c with
  | error e => exact absurd ((decode_eq_error_iff c).1 ⟨e, hdecode⟩) hillegal
  | ok i =>
    obtain ⟨-, hn, hop⟩ := (decode_eq_ok_iff c i).1 hdecode
    refine (presentCommand_decoded (s := t) hs hfree hdecode).trans ?_
    rw [accept_eq_checks, latchCommand, ← hn, ← hop]

/-! ### A step runs the decoded command -/

/-- A command has its own guard, on the fields a step's guard has read. -/
theorem guarded_exec (i : Instr) {s s' : State} (hp : s'.params = s.params) (hpos : s'.pos = s.pos)
    (ha : s'.active = s.active) (hph : s'.phase = s.phase) (hok : s'.cfgOk = s.cfgOk) :
    guarded s (exec i s') = exec i s' := by
  rw [exec_eq_runCommand, runCommand, guarded_congr _ hp hpos ha hph hok, guarded_guarded]

theorem step_runs_written_command {s : State} {a : Access} {c : Word} {i : Instr} {rest : List Event}
    (hfree : s.busy = false) (h : s.events = .hostWrite a c :: rest) (hwhole : a.whole s.params = true)
    (hcmd : regAt a.off = .cmd) (hi : decode c = .ok i) :
    step s = exec i { s with events := rest, response := some (.write false) } := by
  have hnext : nextEvent s = exec i { s with events := rest, response := some (.write false) } := by
    rw [nextEvent_cons h, takeEvent, memWrite, if_pos hwhole, if_pos hcmd, presentCommand, if_neg (by simp [hfree]), hi]
    rfl
  rw [step, hnext]
  exact guarded_exec i rfl rfl rfl rfl rfl

theorem complete_runs_latched_command {s : State} {i : Instr} (hbusy : s.busy = true)
    (hi : decode s.latch.word = .ok i) : complete s = exec i s := by
  rw [complete, if_pos hbusy, hi]

theorem commandWord_toNat (c : Word) : commandWord 64 c.toNat = c := by
  rw [commandWord, Nat.mod_eq_of_lt c.isLt, BitVec.ofNat_toNat, BitVec.setWidth_eq]

/-- Settles O1: the command's own guard takes the place of the step's. -/
theorem stepRunsTheDecodedCommand : Obligations.StepRunsTheDecodedCommand := by
  refine ⟨fun s a c i rest => step_runs_written_command, fun s i rest hbusy h hi => ?_, fun s i hbusy h hi => ?_,
    fun s c i hi => ?_⟩
  · rw [step, nextEvent_cons h, takeEvent,
      complete_runs_latched_command (s := { s with events := rest }) hbusy hi]
    exact guarded_exec i rfl rfl rfl rfl rfl
  · rw [step, nextEvent_nil h, complete_runs_latched_command hbusy hi]
    exact guarded_exec i rfl rfl rfl rfl rfl
  · have hwhole := whole_at_fixed (P := s.params) (off := 0x010) (by decide) (by decide)
    rw [State.withFetchWord, commandWord_toNat]
    exact step_runs_written_command rfl rfl hwhole rfl hi

end Sys2Proof.Machine
end

section
/-! SUPPORT. The digest (R83 to R88): what a chaining round leaves in the buffer, what a run of the commands' events
does, and the two together. -/

namespace Sys2Proof.Machine

/-! ### Chaining rounds as functions of the buffer's bytes -/

theorem length_bytes (m : Memory) (n : Nat) : (m.bytes n).length = n := by
  rw [Memory.bytes, List.length_map, List.length_range]

theorem squeeze_bytes (P : Params) {rate : Nat} (hr : 0 < rate) (q : Nat) (A : Lanes) {out : Memory} (h : out.wf) :
    (squeeze P rate q A out).2.bytes q = sourceSqueeze P rate q A := by
  obtain ⟨hbytes, -⟩ := squeezeWritesTheOutput P rate q A out hr h
  exact List.map_congr_left fun j hj => hbytes j (List.mem_range.1 hj)

/-- Settles O29: the buffer's first `q` bytes are the message of the round. -/
theorem chainRoundHashesTheBuffer : Obligations.ChainRoundHashesTheBuffer := by
  intro P rate q out hr h
  rw [chainRound, squeeze_bytes P hr q _ h, absorptionMatchesTheSource P rate _ _ hr, length_bytes]
  rfl

theorem chainRound_bytes (P : Params) {rate : Nat} (hr : 0 < rate) (q : Nat) {out : Memory} (h : out.wf) :
    (chainRound P rate q out).2.bytes q = sourceRound P rate q (out.bytes q) := by
  rw [chainRoundHashesTheBuffer P rate q out hr h, sourceRound, length_bytes]
  rfl

theorem chainRounds_bytes (P : Params) {rate : Nat} (hr : 0 < rate) (q : Nat) : ∀ (n : Nat) {st : Lanes × Memory},
    st.2.wf → (chainRounds P rate q n st).2.bytes q = (sourceRound P rate q)^[n] (st.2.bytes q)
  | 0, _, _ => rfl
  | n + 1, st, h => by
    rw [chainRounds, chainRounds_bytes P hr q n (chainRound_wf P rate q h), chainRound_bytes P hr q h,
      Function.iterate_succ_apply]

/-- FINAL over a sponge that has absorbed a message from the zero state leaves the source's digest (R84, R87). -/
theorem finalRounds_bytes (P : Params) {rate : Nat} (hr : 0 < rate) (q : Nat) {rounds : Nat} (hrounds : 1 ≤ rounds)
    (msg : List Byte) {out : Memory} (h : out.wf) :
    (finalRounds P rate q rounds (absorbBytes P rate ⟨zeroLanes, 0⟩ msg) out).2.bytes q =
      sourceDigest P rate q rounds msg := by
  obtain ⟨n, rfl⟩ : ∃ n, rounds = n + 1 := Nat.exists_eq_add_of_le' hrounds
  rw [finalRounds, Nat.add_sub_cancel, chainRounds_bytes P hr q n (squeeze_wf P rate q _ h), squeeze_bytes P hr q _ h,
    absorptionMatchesTheSource P rate _ _ hr, sourceDigest, Function.iterate_succ_apply, sourceRound]

end Sys2Proof.Machine
end

section
/-! SUPPORT. Runs over the events of commands (R61, R82, R88): one command, one group of message bytes, a message, and
the whole digest. -/

namespace Sys2Proof.Machine

/-- A run keeps the invariant, since every step does. -/
theorem run_keeps_inv : ∀ {n : Nat} {s t : State}, s.Inv → run n s = .next t → t.Inv
  | 0, _, _, h, hrun => by
    cases hrun
    exact h
  | n + 1, s, t, h, hrun => by
    obtain ⟨s', hstep⟩ := invariantStatesNeverStop s h
    rw [run_succ_of_step n hstep] at hrun
    exact run_keeps_inv (stepKeepsTheInvariant s s' h hstep) hrun

/-! ### One command -/

theorem accept_latches {i : Instr} {s : State} (hwf : i.wf = true) (hlegal : legalIn i s.phase = true)
    (hcfg : needsCfg i = true → s.cfgOk = true) : accept i s = latchCommand i s := by
  rw [accept, if_neg (by simp [hwf]), if_neg (by simp [hlegal]), if_neg (by simpa using hcfg)]

/-- The state after a command has been written, accepted and completed, with the events `rest` left. -/
def afterCommand (i : Instr) (rest : List Event) (s : State) : State :=
  { commandEffect i (latchCommand i { s with events := rest, response := some (.write false) }) with busy := false }

theorem step_accepts_command {i : Instr} {s : State} {rest : List Event} (hs : s.Sound) (hfree : s.busy = false)
    (hwf : i.wf = true) (hlegal : legalIn i s.phase = true) (hcfg : needsCfg i = true → s.cfgOk = true)
    (h : s.events = .hostWrite (Access.at 0x010) (encode i) :: rest) :
    step s = .next (latchCommand i { s with events := rest, response := some (.write false) }) := by
  let t : State := { s with events := rest, response := some (.write false) }
  have hdecode : decode (encode i) = .ok i := (decodeEncodeAgree i _).2 rfl
  rw [step_command_word hs h, ← accept_latches (s := t) hwf hlegal hcfg]
  exact presentCommand_decoded (s := t) hs hfree hdecode

theorem step_completes_command {i : Instr} {s : State} {rest : List Event} (hs : s.Sound) (hbusy : s.busy = true)
    (hdecode : decode s.latch.word = .ok i) (h : s.events = .coreComplete :: rest) :
    step s = .next { commandEffect i { s with events := rest } with busy := false } := by
  let t : State := { s with events := rest }
  rw [step_takes_event hs h]
  exact (complete_runs_latched_command (s := t) hbusy hdecode).trans (exec_completes i (s := t) hs hbusy)

/-- A command that acceptance lets through, written to a free core and completed. -/
theorem run_commandEvents {i : Instr} {s : State} {rest : List Event} (hs : s.Sound) (hfree : s.busy = false)
    (hwf : i.wf = true) (hlegal : legalIn i s.phase = true) (hcfg : needsCfg i = true → s.cfgOk = true)
    (h : s.events = commandEvents i ++ rest) : run 2 s = .next (afterCommand i rest s) := by
  let latched : State := latchCommand i { s with events := .coreComplete :: rest, response := some (.write false) }
  have haccept : step s = .next latched := step_accepts_command hs hfree hwf hlegal hcfg h
  have hcomplete : step latched = .next (afterCommand i rest s) :=
    step_completes_command (s := latched) hs rfl (decode_latchCommand_word i _) rfl
  rw [run_succ_of_step 1 haccept, run_succ_of_step 0 hcomplete, run_zero]

/-! ### The groups of a message -/

/-- From `s` to `t` a free core in ABSORBING has absorbed the bytes `bs`, in the same configuration. -/
structure Absorbed (s t : State) (bs : List Byte) : Prop where
  sponge : ⟨t.lanes, t.pos⟩ = absorbBytes s.params s.rateBytes ⟨s.lanes, s.pos⟩ bs
  msgLen : t.msgLen = s.msgLen + BitVec.ofNat 64 bs.length
  params : t.params = s.params
  active : t.active = s.active
  busy : t.busy = false
  phase : t.phase = .absorbing

theorem Absorbed.rateBytes {s t : State} {bs : List Byte} (h : Absorbed s t bs) : t.rateBytes = s.rateBytes :=
  congrArg CfgWords.rateBytes h.active

theorem Absorbed.refl {s : State} (hfree : s.busy = false) (hphase : s.phase = .absorbing) : Absorbed s s [] where
  sponge := rfl
  msgLen := (BitVec.add_zero s.msgLen).symm
  params := rfl
  active := rfl
  busy := hfree
  phase := hphase

theorem Absorbed.trans {s t u : State} {bs cs : List Byte} (h : Absorbed s t bs) (h' : Absorbed t u cs) :
    Absorbed s u (bs ++ cs) where
  sponge := by rw [h'.sponge, h.params, h.rateBytes, h.sponge, absorbBytes_append]
  msgLen := by rw [h'.msgLen, h.msgLen, List.length_append, BitVec.ofNat_add, BitVec.add_assoc]
  params := h'.params.trans h.params
  active := h'.active.trans h.active
  busy := h'.busy
  phase := h'.phase

theorem length_dinBytes (din : Word) (n : BitVec 4) : (dinBytes din n).length = n.toNat := by
  rw [dinBytes, List.length_map, List.length_range]

/-- The completion of an ABSORB whose `DIN` holds the group's word. -/
theorem absorbed_afterCommand {s : State} (hphase : s.phase = .absorbing) (din : Word) (n : BitVec 4)
    (rest : List Event) (events : List Event) :
    Absorbed s (afterCommand (.absorb n) rest { s with events := events, response := some (.write false), din := din })
      (dinBytes din n) where
  sponge := rfl
  msgLen := by
    rw [length_dinBytes, BitVec.ofNat_toNat]
    rfl
  params := rfl
  active := rfl
  busy := rfl
  phase := hphase

theorem absorb_wf {n : BitVec 4} (h : 1 ≤ n ∧ n ≤ 8) : (Instr.absorb n).wf = true := by
  revert n
  decide

/-- The DIN write of a group, its ABSORB and the completion. -/
theorem run_group {s : State} {din : Word} {n : BitVec 4} {rest : List Event} (h : s.Inv) (hfree : s.busy = false)
    (hphase : s.phase = .absorbing) (hn : 1 ≤ n ∧ n ≤ 8)
    (hevents : s.events = .hostWrite (Access.at 0x018) din :: (commandEvents (.absorb n) ++ rest)) :
    ∃ t, run 3 s = .next t ∧ t.events = rest ∧ Absorbed s t (dinBytes din n) := by
  obtain ⟨hdin, -⟩ := dinAndStagingWrites s 0x018 din _ h.toSound hevents
  let written : State :=
    { s with events := commandEvents (.absorb n) ++ rest, response := some (.write false), din := din }
  have habsorb : run 2 written = .next (afterCommand (.absorb n) rest written) :=
    run_commandEvents (s := written) h.toSound hfree (absorb_wf hn) (beq_iff_eq.2 hphase) nofun rfl
  refine ⟨afterCommand (.absorb n) rest written, ?_, rfl, absorbed_afterCommand hphase din n rest _⟩
  rw [run_succ_of_step 2 (hdin rfl), habsorb]

theorem run_absorbEvents : ∀ (groups : List (Word × BitVec 4)) {s : State} {rest : List Event}, s.Inv →
    s.busy = false → s.phase = .absorbing → (∀ g ∈ groups, 1 ≤ g.2 ∧ g.2 ≤ 8) →
    s.events = absorbEvents groups ++ rest →
    ∃ t, run (3 * groups.length) s = .next t ∧ t.events = rest ∧ Absorbed s t (groupBytes groups)
  | [], s, _, _, hfree, hphase, _, hevents => ⟨s, rfl, hevents, .refl hfree hphase⟩
  | g :: groups, s, rest, h, hfree, hphase, hn, hevents => by
    obtain ⟨hg, hgroups⟩ := List.forall_mem_cons.1 hn
    rw [absorbEvents, List.flatMap_cons, List.append_assoc] at hevents
    obtain ⟨t, hrun, hrest, hfirst⟩ := run_group h hfree hphase hg hevents
    obtain ⟨u, hruns, hend, hothers⟩ :=
      run_absorbEvents groups (run_keeps_inv h hrun) hfirst.busy hfirst.phase hgroups hrest
    refine ⟨u, ?_, hend, hfirst.trans hothers⟩
    rw [List.length_cons, Nat.mul_succ, Nat.add_comm, run_add_of_run _ hrun, hruns]

/-- Settles O30: three steps for every group. -/
theorem absorbCommandsAbsorbTheirBytes : Obligations.AbsorbCommandsAbsorbTheirBytes := by
  intro groups s rest h hfree hphase hn hevents
  obtain ⟨t, hrun, hrest, habsorbed⟩ := run_absorbEvents groups h hfree hphase hn hevents
  exact ⟨t, hrun, hrest, habsorbed.busy, habsorbed.phase, habsorbed.sponge, habsorbed.msgLen⟩

/-! ### The digest -/

theorem length_absorbEvents (groups : List (Word × BitVec 4)) : (absorbEvents groups).length = 3 * groups.length := by
  induction groups with
  | nil => rfl
  | cons g groups ih =>
    rw [absorbEvents, List.flatMap_cons, List.length_append, ← absorbEvents, ih, List.length_cons]
    simp only [commandEvents, List.length_cons, List.length_nil]
    omega

theorem length_digestEvents (groups : List (Word × BitVec 4)) :
    (digestEvents groups).length = 2 + (3 * groups.length + 2) := by
  rw [digestEvents, List.length_append, List.length_append, length_absorbEvents, Nat.add_assoc]
  rfl

/-- Settles O31: INIT starts from the zero state, the groups are absorbed, and FINAL leaves the digest. -/
theorem digestOfTheMessage : Obligations.DigestOfTheMessage := by
  intro groups s rest h hfree hcfg hn hevents
  rw [digestEvents, List.append_assoc, List.append_assoc] at hevents
  have hinit := run_commandEvents (i := .init) h.toSound hfree rfl rfl (fun _ => hcfg) hevents
  have hstart := run_keeps_inv h hinit
  obtain ⟨t, habsorb, hrest, habsorbed⟩ := run_absorbEvents groups hstart rfl rfl hn rfl
  have ht := run_keeps_inv hstart habsorb
  have hfinal := run_commandEvents (i := .final) ht.toSound habsorbed.busy rfl
    (beq_iff_eq.2 habsorbed.phase) nofun hrest
  have hrun : run (digestEvents groups).length s = .next (afterCommand .final rest t) := by
    rw [length_digestEvents, run_add_of_run _ hinit, run_add_of_run _ habsorb, hfinal]
  have hrate : 0 < s.rateBytes := Nat.lt_of_lt_of_le (by decide) h.rate_bounds.1
  have hrounds : 1 ≤ s.active.rounds.toNat := by
    obtain ⟨-, -, -, -, -, hrounds⟩ := (validate_eq_zero_iff _ _).1 h.activeLegal
    exact hrounds
  refine ⟨_, hrun, rfl, rfl, rfl, rfl, ?_, ?_⟩
  · exact habsorbed.msgLen.trans (BitVec.zero_add _)
  · have hparams : t.params = s.params := habsorbed.params
    have hactive : t.active = s.active := habsorbed.active
    have hsponge : ⟨t.lanes, t.pos⟩ = absorbBytes s.params s.rateBytes ⟨zeroLanes, 0⟩ (groupBytes groups) :=
      habsorbed.sponge
    have hout : (afterCommand .final rest t).out = (finalRounds t.params t.active.rateBytes t.active.outBytes
      t.active.rounds.toNat ⟨t.lanes, t.pos⟩ t.out).2 := rfl
    rw [hout, hparams, hactive, hsponge]
    exact finalRounds_bytes s.params hrate s.outBytes hrounds (groupBytes groups) ht.outWf

end Sys2Proof.Machine
end

section
/-! SUPPORT. What a read of each register shows (R21 to R32, R43 to R46, R95). -/

namespace Sys2Proof.Machine

/-! ### Fields of a word put together from smaller ones -/

/-- Above an appended field stands what it was appended to. -/
theorem extractLsb'_append_above {m n : Nat} (x : BitVec m) (y : BitVec n) (k len : Nat) :
    (x ++ y).extractLsb' (n + k) len = x.extractLsb' k len := by
  rw [BitVec.extractLsb'_append_eq_of_le (Nat.le_add_right n k), Nat.add_sub_cancel_left]

theorem getLsbD_append_above {m n : Nat} (x : BitVec m) (y : BitVec n) (k : Nat) :
    (x ++ y).getLsbD (n + k) = x.getLsbD k := by
  rw [BitVec.getLsbD_append, if_neg (by omega), Nat.add_sub_cancel_left]

theorem getLsbD_append_ofBool_zero {m : Nat} (x : BitVec m) (b : Bool) : (x ++ BitVec.ofBool b).getLsbD 0 = b := by
  rw [BitVec.getLsbD_append]
  simp

/-! ### The registers of constants, status and configuration -/

/-- Settles O35: the size of the buffer in words fits its 16 bits, since R8 bounds it. -/
theorem idRegister : Obligations.IdRegister := by
  intro s hvalid
  have hmax : s.params.maxOutBytes ≤ 524280 := by
    simp only [Params.valid, Bool.and_eq_true, decide_eq_true_eq] at hvalid
    exact hvalid.1.2
  refine ⟨?_, ?_, BitVec.extractLsb'_append_eq_right⟩
  · calc (readReg s .id).extractLsb' 32 32
        = (0x464C5859#32 ++ BitVec.ofNat 16 (s.params.maxOutBytes / 8)).extractLsb' (16 + 0) 32 :=
          extractLsb'_append_above _ _ (16 + 0) 32
      _ = (0x464C5859#32).extractLsb' 0 32 := extractLsb'_append_above _ _ 0 32
      _ = 0x464C5859 := BitVec.extractLsb'_eq_self
  · have hfield : (readReg s .id).extractLsb' 16 16 = BitVec.ofNat 16 (s.params.maxOutBytes / 8) :=
      (extractLsb'_append_above _ _ 0 16).trans BitVec.extractLsb'_append_eq_right
    rw [hfield, BitVec.toNat_ofNat, Nat.mod_eq_of_lt (by omega)]

theorem pend_eq_true_iff (s : State) : s.pend = true ↔ s.phase = .absorbing ∧ s.pos = s.rateBytes := by
  rw [State.pend, Bool.and_eq_true, beq_iff_eq, beq_iff_eq]

/-- Settles O36: the fields of `STATUS` from bit 0 up. -/
theorem statusRegister : Obligations.StatusRegister := by
  intro s
  have hphase : s.phase.code = (match s.phase with | .ready => 0 | .absorbing => 1 | .done => 2) := by
    cases s.phase <;> rfl
  have hbusy : (readReg s .status).getLsbD 0 = s.busy := getLsbD_append_ofBool_zero _ _
  have hcode : (readReg s .status).extractLsb' 1 2 = s.phase.code :=
    (extractLsb'_append_above _ _ 0 2).trans BitVec.extractLsb'_append_eq_right
  have habove (k : Nat) : (readReg s .status).getLsbD (1 + (2 + k)) =
      (0#58 ++ BitVec.ofBool s.pend ++ BitVec.ofBool s.err ++ BitVec.ofBool s.cfgOk).getLsbD k :=
    (getLsbD_append_above _ _ (2 + k)).trans (getLsbD_append_above _ _ k)
  have hcfg : (readReg s .status).getLsbD 3 = s.cfgOk := (habove 0).trans (getLsbD_append_ofBool_zero _ _)
  have herr : (readReg s .status).getLsbD 4 = s.err :=
    (habove (1 + 0)).trans <| (getLsbD_append_above _ _ 0).trans (getLsbD_append_ofBool_zero _ _)
  have hpend : (readReg s .status).getLsbD 5 = s.pend :=
    (habove (1 + (1 + 0))).trans <| (getLsbD_append_above _ _ (1 + 0)).trans <|
      (getLsbD_append_above _ _ 0).trans (getLsbD_append_ofBool_zero _ _)
  have hreserved : (readReg s .status).extractLsb' 6 58 = 0 :=
    (extractLsb'_append_above _ _ (2 + (1 + (1 + (1 + 0)))) 58).trans <|
      (extractLsb'_append_above _ _ (1 + (1 + (1 + 0))) 58).trans <|
      (extractLsb'_append_above _ _ (1 + (1 + 0)) 58).trans <| (extractLsb'_append_above _ _ (1 + 0) 58).trans <|
      (extractLsb'_append_above _ _ 0 58).trans BitVec.extractLsb'_eq_self
  exact ⟨hbusy, hcode.trans hphase, hcfg, herr ▸ bne_iff_ne, hpend ▸ pend_eq_true_iff s, hreserved⟩

theorem irq_eq_true_iff (s : State) :
    s.irq = true ↔ (s.donePend = true ∧ s.doneEn = true) ∨ (s.errPend = true ∧ s.errEn = true) := by
  rw [State.irq, Bool.or_eq_true, Bool.and_eq_true, Bool.and_eq_true]

/-- Settles O37: the fields of `INT` from bit 0 up. -/
theorem interruptRegisterAndLine : Obligations.InterruptRegisterAndLine := by
  intro s
  have hdonePend : (readReg s .int).getLsbD 0 = s.donePend := getLsbD_append_ofBool_zero _ _
  have herrPend : (readReg s .int).getLsbD 1 = s.errPend :=
    (getLsbD_append_above _ _ 0).trans (getLsbD_append_ofBool_zero _ _)
  have hlow : (readReg s .int).extractLsb' 2 6 = 0 :=
    (extractLsb'_append_above _ _ (1 + 0) 6).trans <| (extractLsb'_append_above _ _ 0 6).trans
      BitVec.extractLsb'_append_eq_right
  have habove (k : Nat) : (readReg s .int).getLsbD (1 + (1 + (6 + k))) =
      (0#54 ++ BitVec.ofBool s.errEn ++ BitVec.ofBool s.doneEn).getLsbD k :=
    (getLsbD_append_above _ _ (1 + (6 + k))).trans <| (getLsbD_append_above _ _ (6 + k)).trans
      (getLsbD_append_above _ _ k)
  have hdoneEn : (readReg s .int).getLsbD 8 = s.doneEn := (habove 0).trans (getLsbD_append_ofBool_zero _ _)
  have herrEn : (readReg s .int).getLsbD 9 = s.errEn :=
    (habove (1 + 0)).trans <| (getLsbD_append_above _ _ 0).trans (getLsbD_append_ofBool_zero _ _)
  have hhigh : (readReg s .int).extractLsb' 10 54 = 0 :=
    (extractLsb'_append_above _ _ (1 + (6 + (1 + (1 + 0)))) 54).trans <|
      (extractLsb'_append_above _ _ (6 + (1 + (1 + 0))) 54).trans <|
      (extractLsb'_append_above _ _ (1 + (1 + 0)) 54).trans <| (extractLsb'_append_above _ _ (1 + 0) 54).trans <|
      (extractLsb'_append_above _ _ 0 54).trans BitVec.extractLsb'_eq_self
  exact ⟨hdonePend, herrPend, hlow, hdoneEn, herrEn, hhigh, irq_eq_true_iff s⟩

/-- A 32-bit value shown in a 64-bit register (R25). -/
theorem toNat_half (h : Half) : (h.zeroExtend 64).toNat = h.toNat :=
  BitVec.toNat_setWidth_of_le (by decide)

/-- A derived size of at most 32 bits fits its register. -/
theorem toNat_size {n : Nat} (h : n < 2 ^ 32) : (BitVec.ofNat 64 n).toNat = n := by
  rw [BitVec.toNat_ofNat, Nat.mod_eq_of_lt (by omega)]

/-- Settles O38: the sizes fit the registers, so none is cut off. -/
theorem activeConfigurationRegisters : Obligations.ActiveConfigurationRegisters := by
  intro s h
  have hrate : s.rateBytes < 2 ^ 32 := by
    have := h.rate_bounds.2
    omega
  have hout : s.outBytes < 2 ^ 32 := (Nat.div_le_self _ 8).trans_lt s.active.outlen.isLt
  cases hcfg : s.cfgOk
  · simp [readReg, hcfg]
  · simp only [readReg, hcfg, if_true]
    exact ⟨toNat_size hrate, toNat_size hout, toNat_half s.active.rounds⟩

/-- Settles O39: the position is at most 200 (R62, R94), so `SPOS` shows all of it. -/
theorem plainRegisters : Obligations.PlainRegisters := by
  intro s h
  have hpos : s.pos < 2 ^ 8 := by
    have hrate := h.rate_bounds.2
    have hblock := h.posInBlock
    omega
  refine ⟨rfl, rfl, toNat_half _, toNat_half _, toNat_half _, toNat_half _, rfl, ?_, rfl, rfl⟩
  show ((BitVec.ofNat 8 s.pos).setWidth 64).toNat = s.pos
  rw [BitVec.toNat_setWidth_of_le (by decide), BitVec.toNat_ofNat, Nat.mod_eq_of_lt hpos]

/-! ### Lanes and output words -/

/-- Settles O40: all 25 indexes are in the lane file. -/
theorem laneReads : Obligations.LaneReads := by
  intro s i
  rw [readReg, laneAt_of_lt s.lanes i.isLt]
  rfl

/-- The byte before those of a word, appended below them, is byte 0 of the longer word. -/
theorem extractLsb'_append_read {m : Memory} {a n count : Nat} {x : BitVec n}
    (hx : ∀ k < count, x.extractLsb' (8 * k) 8 = m.read (a + 1 + k)) :
    ∀ k < count + 1, (x ++ m.read a).extractLsb' (8 * k) 8 = m.read (a + k)
  | 0, _ => BitVec.extractLsb'_append_eq_right
  | k + 1, hk => by
    rw [Nat.mul_succ, Nat.add_comm (8 * k), extractLsb'_append_above, hx k (Nat.lt_of_succ_lt_succ hk), Nat.add_assoc a,
      Nat.add_comm 1]

/-- The bytes of a word of the buffer are in the order of R40. -/
theorem byteOf_word (m : Memory) (j : Nat) {k : Nat} (hk : k < 8) : byteOf (m.word j) k = m.read (8 * j + k) := by
  have hbyte7 : ∀ k < 1, (m.read (8 * j + 7)).extractLsb' (8 * k) 8 = m.read (8 * j + 7 + k)
    | 0, _ => BitVec.extractLsb'_eq_self
  have hbyte4 := extractLsb'_append_read <| extractLsb'_append_read <| extractLsb'_append_read hbyte7
  have hbyte1 := extractLsb'_append_read <| extractLsb'_append_read <| extractLsb'_append_read hbyte4
  exact extractLsb'_append_read hbyte1 k hk

/-- Settles O42: a busy core shows 0, a free one the buffer's word. -/
theorem outputWordBytes : Obligations.OutputWordBytes := by
  intro s j k hk
  cases hbusy : s.busy
  · rw [readReg, if_neg (by simp [hbusy]), if_neg (by simp)]
    exact byteOf_word s.out j hk
  · rw [readReg, if_pos hbusy, if_pos rfl]
    exact BitVec.extractLsb'_zero

end Sys2Proof.Machine
end
